-- ==== Sys2Proof/Word.lean ====
section
/-! DEFINITION. The word types of the link: a byte, and a ten-bit symbol (R133, R167). -/

namespace Sys2Proof

/-- One byte of a field, a pixel or a data symbol's value. -/
abbrev Byte := BitVec 8

/-- One symbol of the link, bits 9 down to 0: marker, eight value bits, even parity (R133, R167). -/
abbrev Symbol := BitVec 10

end Sys2Proof
end

