-- ==== Sys2Proof/Syntax.lean ====
section
/-! DEFINITION. The commands, one constructor per row of spec/opcode_table.json. The table gives no row any bits: the
operands are what the rule of the row reads. -/

namespace Sys2Proof

/-- One data symbol of a unit: its value, and whether it arrives with a parity error (R133). -/
structure DataByte where
  value : Byte
  bad   : Bool := false
  deriving DecidableEq, Repr

/-- An image unit as it arrives (R168): its L, and its data symbols, the lane symbol first. Fewer data symbols than L
leave the unit in progress until the next tag ends it (R137). -/
structure ImageUnit where
  length : BitVec 16
  data   : List DataByte
  deriving DecidableEq, Repr

/-- A REQUEST unit as it arrives (R149, R168): addressed to the part or broadcast, its L, its request tag, whether its
kind symbol has a parity error, and its operand symbols. The kind's value is the row's. -/
structure Request where
  broadcast : Bool := false
  length    : BitVec 16
  tag       : DataByte
  kindBad   : Bool := false
  operands  : List DataByte
  deriving DecidableEq, Repr

/-- The commands the part takes from outside and the events of the part, a row of spec/opcode_table.json each. -/
inductive Instr where
  /-- POWER_ON (R159), the straps ADR[4:0] reading `adr`. -/
  | powerOn (adr : BitVec 5)
  /-- RESET_ASSERT (R131). -/
  | resetAssert
  /-- RESET_RELEASE (R159), the straps ADR[4:0] reading `adr`. -/
  | resetRelease (adr : BitVec 5)
  /-- SYMBOL_ARRIVAL (R143): one symbol on the upstream port. -/
  | symbolArrival (sym : Symbol)
  /-- ITEM_OPEN (R3): an ITEM OPEN unit for this part. -/
  | itemOpen (u : ImageUnit)
  /-- LINE (R9): a LINE unit for this part. -/
  | line (u : ImageUnit)
  /-- ITEM_CLOSE (R13): an ITEM CLOSE unit for this part. -/
  | itemClose (u : ImageUnit)
  /-- STALL_EXPIRY (R16): the stall timer of a lane reaches its limit. -/
  | stallExpiry (lane : Fin 4)
  /-- CLOSING_QUEUE (R19): a lane in CLOSING tests its output store for room. -/
  | closingQueue (lane : Fin 4)
  /-- PRESENT_HELD_UNIT (R141). -/
  | presentHeldUnit
  /-- LOAD_PROFILE (R26). -/
  | loadProfile (r : Request)
  /-- READ_PROFILE (R29). -/
  | readProfile (r : Request)
  /-- LOAD_TONE (R32). -/
  | loadTone (r : Request)
  /-- READ_TONE (R33). -/
  | readTone (r : Request)
  /-- LOAD_TIMEBASE (R35). -/
  | loadTimebase (r : Request)
  /-- READ_STATUS (R154). -/
  | readStatus (r : Request)
  /-- ABORT_LANE (R21). -/
  | abortLane (r : Request)
  /-- RESTART_PART (R156). -/
  | restartPart (r : Request)
  /-- RELOAD_BOOT (R157). -/
  | reloadBoot (r : Request)
  /-- DSTOP_ASSERT (R127). -/
  | dstopAssert
  /-- DSTOP_DEASSERT (R127). -/
  | dstopDeassert
  /-- PRESCALER_PULSE (R165). -/
  | prescalerPulse
  /-- TICK (R165). -/
  | tick
  /-- EMIT_UNIT_BEGIN (R125). -/
  | emitUnitBegin
  /-- UNIT_END (R120). -/
  | unitEnd
  /-- BOOT_MEMORY_NO_ANSWER (R161). -/
  | bootMemoryNoAnswer
  /-- BOOT_BYTE_READ (R162): one image byte taken from the boot memory. -/
  | bootByteRead (b : Byte)
  /-- SYMBOL_SENT (R125). -/
  | symbolSent
  deriving DecidableEq, Repr

end Sys2Proof
end

