-- ==== Sys2Proof/Decode.lean ====
section
/-! DEFINITION. Reading a command from the bits of a table row. spec/opcode_table.json gives no row any bits (every
row's "fields" is empty), so no word spells a command; what arrives on the link is spelled by SYMBOL_ARRIVAL and the
parse of chapter 9. -/

namespace Sys2Proof

/-- The command that the word `w` of `nbits` bits spells by the table's bits: the table gives none. -/
def decodeTableWord (_nbits _w : Nat) : Option Instr := none

end Sys2Proof
end

