-- ==== Sys2Proof/Machine/State.lean ====
section
/-! DEFINITION. The state of the part, as plain data, and its value after reset. Each structure is one block's state
table in the data book; the range and reset columns of those tables are its fields' docstrings and defaults. -/

namespace Sys2Proof.Machine

/-! ## Names -/

/-- R1: the state of a lane. -/
inductive LaneState where
  | idle | opened | discard | closing
  deriving DecidableEq, Repr

/-- R1: why an item's header was refused. -/
inductive Reason where
  | none | badHeader | noProfile
  deriving DecidableEq, Repr

/-- R150: the reply codes. -/
inductive ReplyCode where
  | done | badKind | badLength | badParity | badIndex | badValue | inUse | busy | noMemory | badImage
  deriving DecidableEq, Repr

/-- R148: the cause of the last reset. -/
inductive ResetCause where
  | powerOn | resetLine | request
  deriving DecidableEq, Repr

/-- R138: what LRX does with a unit. -/
inductive UnitClass where
  | own | transit | broadcast | dropped
  deriving DecidableEq, Repr

/-! ## Segments -/

/-- R89, R169: a segment header, by kind. -/
inductive SegHeader where
  | bBand (cls : Nat) (lane : Fin 4) (item : BitVec 32) (bandIndex firstRow rowCount tBand wOutB h : Nat)
  | gGroup (cls : Nat) (lane : Fin 4) (item : BitVec 32) (firstRow rowCount wOutG depth : Nat) (table : Fin 4)
  | result (cls : Nat) (lane : Fin 4) (item : BitVec 32)
  | reply (tag kind : Byte) (code : ReplyCode) (address : BitVec 5)
  deriving DecidableEq, Repr

/-- Section 6.3: a segment is a header and a body. -/
structure Segment where
  header : SegHeader
  body   : List Byte
  deriving DecidableEq, Repr

/-! ## Profiles -/

/-- R24: the 36-byte profile record, field by field in the order of the table. -/
structure Record where
  bEnable     : Byte := 0
  sB          : Byte := 0
  eB          : Byte := 0
  vB          : Byte := 0
  bandCode    : Byte := 0
  mode        : Byte := 0
  tInit       : Byte := 0
  tMin        : Byte := 0
  tMax        : Byte := 0
  target      : Byte := 0
  despeckle   : Byte := 0
  gEnable     : Byte := 0
  sG          : Byte := 0
  eG          : Byte := 0
  vG          : Byte := 0
  gDepth      : Byte := 0
  toneTable   : Byte := 0
  lMin        : BitVec 16 := 0
  lMax        : BitVec 16 := 0
  dMin        : BitVec 16 := 0
  dMax        : BitVec 16 := 0
  zMin        : BitVec 32 := 0
  zMax        : BitVec 32 := 0
  streakLimit : BitVec 16 := 0
  stallLimit  : Byte := 0
  deriving DecidableEq, Repr

/-- R23: a profile's record and its valid flag. -/
structure ProfileSlot where
  valid  : Bool := false
  record : Record := {}
  deriving DecidableEq, Repr

/-- R23: the Table Store. The defaults are its values after power-on and RESET#. -/
structure TableStore where
  profiles : Vector ProfileSlot 16 := Vector.replicate 16 {}
  /-- R30: after power-on every table is the identity. -/
  tones    : Vector (Vector Byte 256) 4 := Vector.replicate 4 (Vector.ofFn fun i => BitVec.ofNat 8 i.val)
  inUse    : Vector Nat 4 := Vector.replicate 4 0
  prescale : Nat := 0
  divisor  : Nat := 1
  deriving DecidableEq, Repr

/-! ## A lane -/

/-- R1: the item header as taken from the ITEM OPEN. -/
structure ItemHeader where
  item    : BitVec 32 := 0
  profile : Byte := 0
  side    : Byte := 0
  /-- The class as recorded: a received class above 1 is recorded as 1 (R3). -/
  cls     : Fin 2 := 0
  wIn     : BitVec 16 := 0
  deriving DecidableEq, Repr

/-- R1, R108: the processing flags. -/
structure ProcFlags where
  superseded    : Bool := false
  stalled       : Bool := false
  aborted       : Bool := false
  countMismatch : Bool := false
  lineCap       : Bool := false
  outputLost    : Bool := false
  bDropped      : Bool := false
  bandReduced   : Bool := false
  shortLines    : Bool := false
  longLines     : Bool := false
  pixelParity   : Bool := false
  deriving DecidableEq, Repr

/-- R1: the item snapshot; empty after reset and while no item is open. -/
structure Snapshot where
  record  : Option Record := none
  wOutB   : Nat := 0
  wOutG   : Nat := 0
  /-- H in use: 0, 4, 8, 16 or 32. -/
  h       : Nat := 0
  bActive : Bool := false
  gActive : Bool := false
  deriving DecidableEq, Repr

/-- What a lane has of the unit it is taking (R3, R9 to R14, R16). -/
inductive Taking where
  /-- No unit. -/
  | none
  /-- An ITEM OPEN not yet checked: its data symbols so far, the lane symbol first. -/
  | header (syms : List Symbol)
  /-- A counted LINE: pixels arrived so far, and the value last passed on (255 before pixel 0, R11). -/
  | line (arrived : Nat) (prev : Byte)
  /-- An ITEM CLOSE not yet checked: its data symbols so far, the lane symbol first. -/
  | close (syms : List Symbol)
  /-- A unit whose further data symbols the lane drops. -/
  | dropping
  deriving DecidableEq, Repr

/-- R39: one reduction channel. -/
structure Channel where
  active      : Bool := false
  s           : Nat := 0
  e           : Nat := 0
  v           : Nat := 0
  wIn         : Nat := 0
  wOut        : Nat := 0
  c           : Nat := 0
  x           : Nat := 0
  p           : Nat := 1
  taken       : Nat := 0
  sums        : List Nat := []
  linesMerged : Nat := 0
  rowIndex    : Nat := 0
  deriving DecidableEq, Repr

/-- R60: one band store. The row count is the number of `rows`. -/
structure BandStore where
  active    : Bool := false
  rows      : List (List Byte) := []
  histogram : Vector Nat 64 := Vector.replicate 64 0
  bandIndex : Nat := 0
  firstRow  : Nat := 0
  tPrev     : Nat := 0
  deriving DecidableEq, Repr

/-- R66: the Threshold Unit's working context for one lane. -/
structure ThresholdContext where
  n       : Nat
  k       : Nat
  t       : Nat
  trial   : Nat
  tSeek   : Nat
  tC      : Nat
  clamped : Bool
  tBand   : Nat
  deriving DecidableEq, Repr

/-- R83: the Row Coder's state for one lane. The group row count is the number of row codes in `group`. -/
structure RowCoder where
  bContext      : Option (List Bool) := none
  groupOpen     : Bool := false
  gWidth        : Nat := 0
  gDepth        : Nat := 0
  gTable        : Fin 4 := 0
  group         : List (List Byte) := []
  groupFirstRow : Nat := 0
  prevPacked    : Option (List Byte) := none
  finalB        : Option Segment := none
  finalG        : Option Segment := none
  deriving DecidableEq, Repr

/-- R99: the Quality Unit's state for one lane. -/
structure Quality where
  blackCount : Nat := 0
  z          : Nat := 0
  streak     : List Bool := []
  bands      : Nat := 0
  clamped    : Nat := 0
  dropped    : Nat := 0
  composed   : Option Segment := none
  deriving DecidableEq, Repr

/-- A lane: its Lane Unit (R1), its two channels (R39), band store (R60), Threshold Unit context (R66), Row Coder state
(R83), Quality Unit state (R99) and output store (R115). -/
structure Lane where
  state        : LaneState := .idle
  header       : ItemHeader := {}
  reason       : Reason := .none
  snap         : Snapshot := {}
  lineCount    : Nat := 0
  shortLines   : Nat := 0
  longLines    : Nat := 0
  parityPixels : Nat := 0
  flags        : ProcFlags := {}
  stallTimer   : Nat := 0
  taking       : Taking := .none
  b            : Channel := {}
  g            : Channel := {}
  band         : BandStore := {}
  threshold    : Option ThresholdContext := none
  coder        : RowCoder := {}
  quality      : Quality := {}
  store        : List Segment := []
  deriving DecidableEq, Repr

/-! ## The link -/

/-- A symbol in the Transit FIFO, as received, and its end mark (R144). -/
structure TransitSymbol where
  sym     : Symbol
  endMark : Bool := false
  deriving DecidableEq, Repr

/-- Where LRX passes the data symbols of the unit in progress (R136, R140, R142, R145). -/
inductive Dest where
  /-- Counted down and dropped: a FILL's data, or a stray's. -/
  | drop
  /-- To the Transit FIFO while `written`; dropped and counted as overruns once a symbol found no room (R145). -/
  | transit (written : Bool)
  /-- An own image unit whose lane symbol has not arrived. -/
  | awaitLane
  /-- An own image unit that lane `n` has taken. -/
  | lane (n : Fin 4)
  /-- A request whose kind symbol has not arrived: the data symbols so far. -/
  | awaitKind (first : List Symbol)
  /-- A request that the Request Unit has taken. -/
  | request
  deriving DecidableEq, Repr

/-- R134: the current unit once its length is known: its three header symbols, its class, the data symbols remaining,
and where they go. Kind, address and L are read from the header symbols. -/
structure CurrentUnit where
  cls       : UnitClass
  tag       : Symbol
  hi        : Symbol
  lo        : Symbol
  remaining : Nat
  dest      : Dest
  deriving DecidableEq, Repr

/-- R134: the parse state with its header progress and current unit. -/
inductive Parse where
  /-- WATCH: no unit in progress. -/
  | watch
  /-- UNIT with header progress 0 (`hi` none) or 1. -/
  | header (cls : UnitClass) (tag : Symbol) (hi : Option Symbol)
  /-- UNIT with the length known. -/
  | body (u : CurrentUnit)
  deriving DecidableEq, Repr

/-- R134, R141: a held unit, the data symbols taken so far, and whether its end has passed. It keeps its own current unit,
the parse state being WATCH (log 32). -/
structure Held where
  unit  : CurrentUnit
  data  : List Symbol
  ended : Bool
  deriving DecidableEq, Repr

/-- R134: LRX, but for the part address (`State.partAddress`). -/
structure Lrx where
  fifo    : List Symbol := []
  parse   : Parse := .watch
  hold    : Option Held := none
  copy    : List Symbol := []
  copyCut : Bool := false
  deriving DecidableEq, Repr

/-! ## Emission -/

/-- R119: the source of an emission stack entry. The STARTED notice carries its cause and tag (R130). -/
inductive Source where
  | lane (n : Fin 4)
  | reply
  | started (cause : ResetCause) (tag : Byte)
  deriving DecidableEq, Repr

/-- R119: a resume point. -/
inductive Resume where
  | segOpen
  | chunk (n : Nat)
  | segClose
  deriving DecidableEq, Repr

/-- R119: an entry of the emission stack. -/
structure StackEntry where
  source : Source
  cls    : Nat
  resume : Resume := .segOpen
  sent   : Nat := 0
  deriving DecidableEq, Repr

/-- R119, R126: the unit whose symbols are being sent. -/
inductive Sending where
  | segOpen (symbols : List Symbol)
  | chunk (n : Nat) (symbols : List Symbol)
  /-- A SEG CLOSE with disposition 0; `release`: its end removes the segment from its source (R117, R118). A RESTART
  PART that finds it in progress has emptied the sources, and clears `release` (R129). -/
  | segClose (release : Bool) (symbols : List Symbol)
  /-- A SEG CLOSE with disposition 1 (R129). -/
  | abandoned (symbols : List Symbol)
  | fill (symbols : List Symbol)
  /-- A transit unit with the L of its header. -/
  | transit (len : Nat)
  deriving DecidableEq, Repr

/-- R119: the current unit of ETX and how many of its symbols have been sent. -/
structure Emitting where
  what : Sending
  sent : Nat := 0
  deriving DecidableEq, Repr

/-- R119: the kind of the last unit begun. -/
inductive Turn where
  | own | transit
  deriving DecidableEq, Repr

/-- R119: ETX. -/
structure Etx where
  /-- The emission stack, its top entry first. -/
  stack     : List StackEntry := []
  unwinding : Bool := false
  started   : Option (ResetCause × Byte) := none
  rr0       : Fin 4 := 3
  rr1       : Fin 4 := 3
  alternation : Turn := .own
  current   : Option Emitting := none
  /-- R127: a symbol was being sent when DSTOP# asserted, and is finished (log 10). -/
  inFlight  : Bool := false
  deriving DecidableEq, Repr

/-! ## Requests, boot memory, time -/

/-- R148, R153: the event flags. -/
structure EventFlags where
  tagParity       : Bool := false
  rxOverrun       : Bool := false
  transitOverrun  : Bool := false
  stray           : Bool := false
  outputLost      : Bool := false
  deriving DecidableEq, Repr

/-- R148: the request in progress: its L, its data symbols recorded (tag and kind first), and how many have arrived. -/
structure RequestInProgress where
  length   : Nat
  data     : List Symbol
  received : Nat
  deriving DecidableEq, Repr

/-- R148: the Request Unit. -/
structure RequestUnit where
  inProgress     : Option RequestInProgress := none
  owed           : Nat := 0
  bootRunning    : Option Byte := none
  stray          : Nat := 0
  tagParity      : Nat := 0
  extraData      : Nat := 0
  rxOverrun      : Nat := 0
  txOverrun      : Nat := 0
  itemsCompleted : Vector Nat 4 := Vector.replicate 4 0
  events         : EventFlags := {}
  lastReset      : ResetCause := .powerOn
  deriving DecidableEq, Repr

/-- R161: the phase of the Boot Loader. -/
inductive BootPhase where
  | idle | check | apply
  deriving DecidableEq, Repr

/-- R161: the purpose of a boot load. -/
inductive BootPurpose where
  | startUp | reload
  deriving DecidableEq, Repr

/-- R161, R163: the staging buffer of the apply pass, entries in image order. -/
structure Staging where
  prescale : Nat := 0
  divisor  : Nat := 0
  profiles : List (Fin 16 × Record) := []
  tones    : List (Fin 4 × List Byte) := []
  deriving DecidableEq, Repr

/-- R161: the Boot Loader. `window` holds the bytes of the element under test (log 18). -/
structure BootLoader where
  phase        : BootPhase := .idle
  purpose      : Option BootPurpose := none
  position     : Nat := 0
  profileCount : Nat := 0
  toneCount    : Nat := 0
  sum          : BitVec 16 := 0
  window       : List Byte := []
  staging      : Staging := {}
  deriving DecidableEq, Repr

/-- R161, R164: what the Boot Loader does on the two-wire bus. -/
inductive BusEvent where
  /-- A start condition, or a repeated one within a transaction. -/
  | start
  /-- The device address, for writing or for reading. -/
  | device (address : BitVec 7) (read : Bool)
  /-- A word address byte. -/
  | wordAddress (v : Byte)
  /-- An image byte acknowledged. -/
  | ack
  /-- The last image byte wanted, not acknowledged. -/
  | noAck
  /-- A stop condition. -/
  | stop
  /-- A transaction cut by RESET#: both wires released, undriven until the next transaction begins. -/
  | released
  deriving DecidableEq, Repr

/-- R161: how a pass begins: the memory addressed at device address 84 and word address 0 (log 29). -/
def busAddressing : List BusEvent :=
  [.start, .device 84 false, .wordAddress 0, .wordAddress 0, .start, .device 84 true]

/-- R165: the Time Base. `phase` false: the next half-step interval is the longer one. -/
structure TimeBase where
  cycles : Nat := 0
  phase  : Bool := false
  pulses : Nat := 0
  deriving DecidableEq, Repr

/-! ## The part -/

/-- The whole part. USTOP#, the free spaces, row counts and occupancies are functions of these fields. -/
structure State where
  /-- The commands that wait, first in, first out. -/
  pending     : List Instr := []
  /-- RESET# is asserted (R159). -/
  resetLine   : Bool := false
  /-- DSTOP# is asserted (R127). -/
  dstop       : Bool := false
  /-- The start-up sequence is running (R160). -/
  startUp     : Bool := false
  partAddress : BitVec 5 := 0
  lrx         : Lrx := {}
  transit     : List TransitSymbol := []
  lanes       : Vector Lane 4 := Vector.replicate 4 {}
  /-- R53: the Band Pool's free count. -/
  pool        : Nat := 131072
  replies     : List Segment := []
  etx         : Etx := {}
  tables      : TableStore := {}
  req         : RequestUnit := {}
  boot        : BootLoader := {}
  time        : TimeBase := {}
  /-- The symbols sent on the downstream port, newest first: the model's record of the port (log 21). -/
  dtx         : List Symbol := []
  /-- R161, R164: what the Boot Loader has done on the two-wire bus, newest first: the model's record of the wires (log 21,
  log 29). -/
  bus         : List BusEvent := []
  /-- The index of the next free choice of R95 (log 11). -/
  orderIndex  : Nat := 0
  deriving DecidableEq, Repr

/-- The reasons a command stops the part with a fault. There are none: the data book answers every error by a reply
code, a flag, a counter or a drop, and goes on. -/
inductive Fault where
  deriving DecidableEq, Repr

/-- The reasons a command is refused. -/
inductive Refusal where
  /-- Raised by `exec` alone, for a row of the opcode table that has no meaning yet (no row now); safe. -/
  | notModelled (mnemonic : String)
  deriving DecidableEq, Repr

/-- The Boot Loader as a start-up sequence starts it: a check pass from the first byte (R160, R161). -/
def BootLoader.startUp : BootLoader := { phase := .check, purpose := some .startUp }

/-- The part right after POWER_ON with the straps reading 0: every field at its power-on value, the start-up sequence
begun and the check pass started (R159, R160, R161; log 1, log 2, log 3). -/
def State.reset : State := { startUp := true, boot := BootLoader.startUp, bus := busAddressing.reverse }

end Sys2Proof.Machine
end

