-- ==== Sys2Proof/Machine/Params.lean ====
section
/-! DEFINITION. The figures of the data book (00_scope.md, Figures common to all chapters), each where its rule is. -/

namespace Sys2Proof.Machine

/-- R53: the Band Pool's bytes. -/
def poolBytes : Nat := 131072
/-- R115: the bytes of one output store. -/
def storeBytes : Nat := 32768
/-- R146: an output store with less free space than this asks for USTOP#. -/
def stopReserve : Nat := 16896
/-- R118: reply segments in a full reply queue. -/
def replyPlaces : Nat := 8
/-- R144: symbols in a full Transit FIFO. -/
def transitPlaces : Nat := 4096
/-- R146: a Transit FIFO holding more symbols than this asks for USTOP#. -/
def transitStop : Nat := 2048
/-- R143: symbols in a full receive FIFO. -/
def fifoPlaces : Nat := 64
/-- R9: the lines counted of one item, at most. -/
def lineCap : Nat := 4096
/-- R149: the data symbols recorded of one request, at most. -/
def requestSymbols : Nat := 259
/-- R142: the symbols of the request copy, at most: a tag, two length symbols and `requestSymbols`. -/
def copySymbols : Nat := 262
/-- R153: where an error counter stays. -/
def counterCap : Nat := 65535
/-- R153: items-completed counters wrap here. -/
def itemsWrap : Nat := 4294967296
/-- R120: the body bytes of a chunk that is not the last. -/
def chunkBytes : Nat := 256
/-- R15: the stall limit of an item in DISCARD. -/
def discardStallLimit : Nat := 255
/-- R162: the two mark bytes of a boot image. -/
def bootMark : Byte × Byte := (67, 82)

end Sys2Proof.Machine
end

