-- ==== Sys2Proof/Machine/Symbols.lean ====
section
/-! DEFINITION. Symbols and bytes: the fields of a symbol (R133, R167), symbols the part originates, and multi-byte
fields, most significant byte first (00_scope.md, Byte order). -/

namespace Sys2Proof.Machine

/-- R167: the marker is bit 9; set, the symbol is a tag. -/
def isTag (sym : Symbol) : Bool := sym.getLsbD 9

/-- R167: the eight value bits, 8 to 1. -/
def symValue (sym : Symbol) : Byte := sym.extractLsb' 1 8

/-- R133: the number of ones among the ten bits. -/
def onesOf (sym : Symbol) : Nat := (List.range 10).countP sym.getLsbD

/-- R133: a symbol whose count of ones is odd has a parity error. -/
def parityError (sym : Symbol) : Bool := onesOf sym % 2 == 1

/-- The parity bit that makes the count of ones of a symbol with this marker and value even (R133). -/
def evenParity (marker : Bool) (v : Byte) : Bool :=
  ((List.range 8).countP v.getLsbD + marker.toNat) % 2 == 1

/-- R167: a symbol from its marker, value and parity bit. -/
def mkSymbol (marker : Bool) (v : Byte) (parity : Bool) : Symbol :=
  ((BitVec.ofBool marker ++ v) ++ BitVec.ofBool parity).cast (by decide)

/-- A data symbol as the part originates it, of even parity (R120, R167). -/
def dataSymbol (v : Byte) : Symbol := mkSymbol false v (evenParity false v)

/-- A tag of even parity: kind in the three high value bits, address in the five low ones (R133, R167). -/
def tagSymbol (kind : BitVec 3) (addr : BitVec 5) : Symbol :=
  mkSymbol true ((kind ++ addr).cast (by decide)) (evenParity true ((kind ++ addr).cast (by decide)))

/-- R133: the kind of a tag. -/
def tagKind (sym : Symbol) : BitVec 3 := (symValue sym).extractLsb' 5 3

/-- R133: the address of a tag. -/
def tagAddress (sym : Symbol) : BitVec 5 := (symValue sym).extractLsb' 0 5

/-! R167: the unit kinds. -/
def kindItemOpen : BitVec 3 := 0
def kindLine : BitVec 3 := 1
def kindItemClose : BitVec 3 := 2
def kindRequest : BitVec 3 := 3
def kindSegOpen : BitVec 3 := 4
def kindChunk : BitVec 3 := 5
def kindSegClose : BitVec 3 := 6
def kindFill : BitVec 3 := 7

/-- R138, R158: the broadcast address. -/
def broadcastAddress : BitVec 5 := 31

/-- The `k` low bytes of `v`, most significant byte first. -/
def beBytes : Nat → Nat → List Byte
  | 0, _ => []
  | k + 1, v => BitVec.ofNat 8 (v / 256 ^ k) :: beBytes k v

/-- The number that bytes spell, most significant byte first. -/
def beValue (bytes : List Byte) : Nat := bytes.foldl (fun n b => n * 256 + b.toNat) 0

/-- The values of symbols. -/
def symValues (syms : List Symbol) : List Byte := syms.map symValue

/-- R135: the L that two length symbols give. -/
def lengthOf (hi lo : Symbol) : Nat := (symValue hi).toNat * 256 + (symValue lo).toNat

/-- R120, R167: a unit as ETX originates it: tag, two length symbols, data symbols, all of even parity. -/
def unitSymbols (kind : BitVec 3) (addr : BitVec 5) (data : List Byte) : List Symbol :=
  tagSymbol kind addr :: (beBytes 2 data.length ++ data).map dataSymbol

end Sys2Proof.Machine
end

