-- ==== Sys2Proof/Machine/Formats.lean ====
section
/-! DEFINITION. Chapter 12: the byte layouts of the profile record, the segment headers, the SEG CLOSE data, and the
code values. -/

namespace Sys2Proof.Machine

/-- R171: the record's 36 bytes, in the order of its layout. -/
def recordBytes (r : Record) : List Byte :=
  [r.bEnable, r.sB, r.eB, r.vB, r.bandCode, r.mode, r.tInit, r.tMin, r.tMax, r.target, r.despeckle,
   r.gEnable, r.sG, r.eG, r.vG, r.gDepth, r.toneTable]
  ++ beBytes 2 r.lMin.toNat ++ beBytes 2 r.lMax.toNat ++ beBytes 2 r.dMin.toNat ++ beBytes 2 r.dMax.toNat
  ++ beBytes 4 r.zMin.toNat ++ beBytes 4 r.zMax.toNat ++ beBytes 2 r.streakLimit.toNat ++ [r.stallLimit]

/-- The number in the `k` bytes from offset `i`. -/
def fieldAt (bytes : List Byte) (i k : Nat) : Nat := beValue ((bytes.drop i).take k)

/-- R171: the record that 36 bytes hold. -/
def recordOfBytes (b : List Byte) : Record where
  bEnable     := b.getD 0 0
  sB          := b.getD 1 0
  eB          := b.getD 2 0
  vB          := b.getD 3 0
  bandCode    := b.getD 4 0
  mode        := b.getD 5 0
  tInit       := b.getD 6 0
  tMin        := b.getD 7 0
  tMax        := b.getD 8 0
  target      := b.getD 9 0
  despeckle   := b.getD 10 0
  gEnable     := b.getD 11 0
  sG          := b.getD 12 0
  eG          := b.getD 13 0
  vG          := b.getD 14 0
  gDepth      := b.getD 15 0
  toneTable   := b.getD 16 0
  lMin        := BitVec.ofNat 16 (fieldAt b 17 2)
  lMax        := BitVec.ofNat 16 (fieldAt b 19 2)
  dMin        := BitVec.ofNat 16 (fieldAt b 21 2)
  dMax        := BitVec.ofNat 16 (fieldAt b 23 2)
  zMin        := BitVec.ofNat 32 (fieldAt b 25 4)
  zMax        := BitVec.ofNat 32 (fieldAt b 29 4)
  streakLimit := BitVec.ofNat 16 (fieldAt b 33 2)
  stallLimit  := b.getD 35 0

/-- R169: the reply code values. -/
def replyCodeByte : ReplyCode → Byte
  | .done => 0 | .badKind => 1 | .badLength => 2 | .badParity => 3 | .badIndex => 4
  | .badValue => 5 | .inUse => 6 | .busy => 7 | .noMemory => 8 | .badImage => 9

/-- R169, R171: the reset cause values. -/
def resetCauseByte : ResetCause → Byte
  | .powerOn => 0 | .resetLine => 1 | .request => 2

/-- R171: the lane state values. -/
def laneStateByte : LaneState → Byte
  | .idle => 0 | .opened => 1 | .discard => 2 | .closing => 3

/-- R170: the reason values. -/
def reasonByte : Reason → Byte
  | .none => 0 | .badHeader => 1 | .noProfile => 2

/-- R89, R169: the header's bytes. -/
def headerBytes : SegHeader → List Byte
  | .bBand cls lane item bandIndex firstRow rowCount tBand wOutB h =>
    [BitVec.ofNat 8 cls, BitVec.ofNat 8 lane.val, 0] ++ beBytes 4 item.toNat ++ beBytes 2 bandIndex
      ++ beBytes 2 firstRow ++ beBytes 1 rowCount ++ beBytes 1 tBand ++ beBytes 2 wOutB ++ beBytes 1 h
  | .gGroup cls lane item firstRow rowCount wOutG depth table =>
    [BitVec.ofNat 8 cls, BitVec.ofNat 8 lane.val, 1] ++ beBytes 4 item.toNat ++ beBytes 2 firstRow
      ++ beBytes 1 rowCount ++ beBytes 2 wOutG ++ beBytes 1 depth ++ [BitVec.ofNat 8 table.val]
  | .result cls lane item =>
    [BitVec.ofNat 8 cls, BitVec.ofNat 8 lane.val, 2] ++ beBytes 4 item.toNat
  | .reply tag kind code address =>
    [2, 255, 3, tag, kind, replyCodeByte code, address.setWidth 8]

/-- R89: the class of a segment; a reply's is 2. -/
def headerClass : SegHeader → Nat
  | .bBand cls .. => cls
  | .gGroup cls .. => cls
  | .result cls .. => cls
  | .reply .. => 2

/-- R89: a segment's size is its header size plus its body size. -/
def segSize (g : Segment) : Nat := (headerBytes g.header).length + g.body.length

/-- R120: the data of a SEG CLOSE: body length and disposition. -/
def segCloseData (bodyLength : Nat) (disposition : Byte) : List Byte := beBytes 2 bodyLength ++ [disposition]

/-- R120: the body bytes of chunk `n`. -/
def chunkData (body : List Byte) (n : Nat) : List Byte := (body.drop (chunkBytes * n)).take chunkBytes

/-- R169: the request kind of the STARTED notice. -/
def startedKind : Byte := 255

/-- R130: the STARTED notice. -/
def startedSegment (cause : ResetCause) (tag : Byte) (address : BitVec 5) : Segment :=
  ⟨.reply tag startedKind .done address, [resetCauseByte cause]⟩

end Sys2Proof.Machine
end

