-- ==== Sys2Proof/Machine/Flags.lean ====
section
/-! DEFINITION. The flag sets and their bit positions (R108, R110, R153, R170, R171). -/

namespace Sys2Proof.Machine

/-- The number whose bit `i` is the `i`-th flag of the list. -/
def flagBits : List Bool → Nat
  | [] => 0
  | f :: fs => f.toNat + 2 * flagBits fs

/-- R170: the processing flags as a 16-bit field, SUPERSEDED in bit 0. -/
def procFlagBits (f : ProcFlags) : Nat :=
  flagBits [f.superseded, f.stalled, f.aborted, f.countMismatch, f.lineCap, f.outputLost, f.bDropped,
    f.bandReduced, f.shortLines, f.longLines, f.pixelParity]

/-- R109: whether any flag that makes an item PARTIAL is set. -/
def anyPartialFlag (f : ProcFlags) : Bool :=
  f.superseded || f.stalled || f.aborted || f.countMismatch || f.lineCap || f.outputLost || f.bDropped

/-- R110: the quality flags. -/
structure QualityFlags where
  short  : Bool := false
  long   : Bool := false
  light  : Bool := false
  dark   : Bool := false
  small  : Bool := false
  large  : Bool := false
  streak : Bool := false
  deriving DecidableEq, Repr

/-- R170: the quality flags as a byte, SHORT in bit 0. -/
def qualityFlagBits (f : QualityFlags) : Nat :=
  flagBits [f.short, f.long, f.light, f.dark, f.small, f.large, f.streak]

/-- R109: whether any quality flag is set. -/
def anyQualityFlag (f : QualityFlags) : Bool :=
  f.short || f.long || f.light || f.dark || f.small || f.large || f.streak

/-- R171: the event flags as a byte, TAG_PARITY_SEEN in bit 0. -/
def eventFlagBits (f : EventFlags) : Nat :=
  flagBits [f.tagParity, f.rxOverrun, f.transitOverrun, f.stray, f.outputLost]

/-- R153: an error counter that saturates at 65,535, raised by `k`. -/
def raiseCounter (k n : Nat) : Nat := min counterCap (n + k)

end Sys2Proof.Machine
end

