-- ==== Sys2Proof/Machine/Operands.lean ====
section
/-! DEFINITION. The symbols that a unit command's operands spell on the upstream link (R133, R167, R168). -/

namespace Sys2Proof.Machine

/-- A data symbol with the given value, its parity bit inverted if it arrives with a parity error (R133). -/
def dataByteSymbol (d : DataByte) : Symbol := mkSymbol false d.value (evenParity false d.value != d.bad)

/-- R167: the two length symbols of a unit. -/
def lengthSymbols (l : BitVec 16) : List Symbol := (beBytes 2 l.toNat).map dataSymbol

/-- The symbols of an image unit of the given kind, addressed to the part. -/
def imageSymbols (kind : BitVec 3) (addr : BitVec 5) (u : ImageUnit) : List Symbol :=
  tagSymbol kind addr :: lengthSymbols u.length ++ u.data.map dataByteSymbol

/-- R168: the data symbols of a request: tag, kind, operands. -/
def requestData (kind : Byte) (r : Request) : List DataByte := r.tag :: ⟨kind, r.kindBad⟩ :: r.operands

/-- The symbols of a request unit, addressed to the part or to the broadcast address. -/
def requestUnitSymbols (kind : Byte) (addr : BitVec 5) (r : Request) : List Symbol :=
  tagSymbol kindRequest (if r.broadcast then broadcastAddress else addr) ::
    lengthSymbols r.length ++ (requestData kind r).map dataByteSymbol

/-! R168: the request kinds. -/
def kindLoadProfile : Byte := 1
def kindReadProfile : Byte := 2
def kindLoadTone : Byte := 3
def kindReadTone : Byte := 4
def kindLoadTimebase : Byte := 5
def kindReadStatus : Byte := 6
def kindAbortLane : Byte := 7
def kindRestartPart : Byte := 8
def kindReloadBoot : Byte := 9

end Sys2Proof.Machine
end

