-- ==== Sys2Proof/Config.lean ====
section
/-! DEFINITION. The free value of the model: what the data book leaves to the part. -/

namespace Sys2Proof

/-- R95: where a band's B segment and a group's G segment are offered to one output store in one event, either may be
taken first. The `k`-th such choice, counted over all lanes: `true` takes the G segment first. It has no value that a
proof can see (log 11). -/
opaque Config.groupFirst : Nat → Bool

end Sys2Proof
end

