-- ==== Sys2Proof/Machine/Threshold.lean ====
section
/-! DEFINITION. Chapter 5: the threshold seek, the black decision and despeckle. -/

namespace Sys2Proof.Machine

/-- R69: C(t), the number of a band's pixels whose bin is below `t`. -/
def cumulative (hist : Vector Nat 64) (t : Nat) : Nat := (hist.toList.take t).sum

/-- R70: one trial of the seek, of weight `w`. -/
def seekTrial (hist : Vector Nat 64) (k t w : Nat) : Nat := if cumulative hist (t + w) ≤ k then t + w else t

/-- R70: the seek position after the first five trials: the position from which the last trial is made. -/
def seekBefore (hist : Vector Nat 64) (k : Nat) : Nat := [32, 16, 8, 4, 2].foldl (seekTrial hist k) 0

/-- R70: the seek: six trials. -/
def seek (hist : Vector Nat 64) (k : Nat) : Nat := seekTrial hist k (seekBefore hist k) 1

/-- R72: the clamp. -/
def clampTo (lo hi v : Nat) : Nat := if v < lo then lo else if hi < v then hi else v

/-- R73: the blend, an exact half rounded up. -/
def blend (tC tPrev : Nat) : Nat := (tC + tPrev + 1) / 2

/-- R67, R68, R72 to R74: the threshold context of a band of `rowCount` rows of width `wOutB`. In fixed mode (mode 0)
only N, K and T_band are computed. -/
def thresholdContext (r : Record) (hist : Vector Nat 64) (rowCount wOutB tPrev : Nat) : ThresholdContext :=
  let n := rowCount * wOutB
  let k := n * r.target.toNat / 256
  if r.mode = 0 then { n, k, t := 0, trial := 0, tSeek := 0, tC := 0, clamped := false, tBand := r.tInit.toNat }
  else
    let t := seek hist k
    let tSeek := 4 * t
    let tC := clampTo r.tMin.toNat r.tMax.toNat tSeek
    { n, k, t, trial := seekBefore hist k + 1, tSeek, tC, clamped := tC != tSeek, tBand := blend tC tPrev }

/-- R76: the black decision on a grey row: black (true) below the threshold. -/
def bitRow (tBand : Nat) (row : List Byte) : List Bool := row.map fun g => decide (g.toNat < tBand)

/-- R77: the majority of three bits. -/
def majority (a b c : Bool) : Bool := (a && b) || (a && c) || (b && c)

/-- R77, R78: the filter from the second bit on, `left` being the unfiltered bit before the list. -/
def despeckleFrom (left : Bool) : List Bool → List Bool
  | [] => []
  | [b] => [majority left b b]
  | b :: right :: rest => majority left b right :: despeckleFrom b (right :: rest)

/-- R77, R78: the three-pixel majority along a row; a missing neighbour equals the bit itself. -/
def despeckle : List Bool → List Bool
  | [] => []
  | b :: rest => despeckleFrom b (b :: rest)

/-- R67 steps 4 and 5: the finished bit row of a grey row. -/
def finishedRow (r : Record) (tBand : Nat) (row : List Byte) : List Bool :=
  if r.despeckle = 1 then despeckle (bitRow tBand row) else bitRow tBand row

end Sys2Proof.Machine
end

