-- ==== Sys2Proof/Machine/RowCode.lean ====
section
/-! DEFINITION. Chapter 6: the row codes of both renditions and the bytes of a row (R85 to R92, R169). -/

namespace Sys2Proof.Machine

/-! R169: the kind bytes. -/
def codeBWhite : Byte := 1
def codeBSame : Byte := 2
def codeBRuns : Byte := 3
def codeBRaw : Byte := 4
def codeGRow : Byte := 5
def codeGSame : Byte := 6

/-- R86: the run lengths of a row from a run of colour `colour` that already has `n` pixels. -/
def runsFrom (colour : Bool) (n : Nat) : List Bool → List Nat
  | [] => [n]
  | b :: rest => if b = colour then runsFrom colour (n + 1) rest else n :: runsFrom b 1 rest

/-- R86: the run lengths of a row, alternating white and black, the first one white and possibly 0. -/
def rowRuns (row : List Bool) : List Nat := runsFrom false 0 row

/-- R86: a run length in groups of 7 bits, low group first, the high bit set where another byte follows. `fuel` bounds
the bytes. -/
def runBytesFrom : Nat → Nat → List Byte
  | 0, _ => []
  | fuel + 1, n =>
    if n < 128 then [BitVec.ofNat 8 n] else BitVec.ofNat 8 (n % 128 + 128) :: runBytesFrom fuel (n / 128)

/-- R86: the bytes of a run length; a run of at most 2,048 pixels takes two at most. -/
def runBytes (n : Nat) : List Byte := runBytesFrom 4 n

/-- R86: the B_RUNS code of a row. -/
def codeRuns (row : List Bool) : List Byte := codeBRuns :: (rowRuns row).flatMap runBytes

/-- The byte of up to eight bits, the first in bit 7, missing bits 0 (R87). -/
def packByte (bits : List Bool) : Byte :=
  BitVec.ofNat 8 (((List.range 8).map fun i => (bits.getD i false).toNat * 2 ^ (7 - i)).sum)

/-- R87: bits packed eight to a byte. `fuel` is at least the number of bytes. -/
def packBits : Nat → List Bool → List Byte
  | 0, _ => []
  | fuel + 1, bits => if bits = [] then [] else packByte (bits.take 8) :: packBits fuel (bits.drop 8)

/-- R87: the B_RAW code of a row. -/
def codeRaw (row : List Bool) : List Byte := codeBRaw :: packBits row.length row

/-- R85: the row code of a finished bit row after the B context `prev`. -/
def codeBRow (prev : Option (List Bool)) (row : List Bool) : List Byte :=
  if row.all (· == false) then [codeBWhite]
  else if prev = some row then [codeBSame]
  else if (codeRuns row).length ≤ (codeRaw row).length then codeRuns row else codeRaw row

/-- R85: the row codes of a band's rows, each row becoming the B context of the next. -/
def codeBRows : Option (List Bool) → List (List Bool) → List (List Byte)
  | _, [] => []
  | prev, row :: rest => codeBRow prev row :: codeBRows (some row) rest

/-- R91: toned values packed at depth 4, two to a byte, the first in the high four bits. -/
def packNibbles : List Byte → List Byte
  | [] => []
  | [a] => [BitVec.ofNat 8 (a.toNat / 16 * 16)]
  | a :: b :: rest => BitVec.ofNat 8 (a.toNat / 16 * 16 + b.toNat / 16) :: packNibbles rest

/-- R91: entry `g` of a tone table. -/
def toneOf (table : Vector Byte 256) (g : Byte) : Byte := table[g.toNat]'g.isLt

/-- R91: a grey row mapped through a tone table and packed at the given depth. -/
def packGRow (table : Vector Byte 256) (depth : Nat) (row : List Byte) : List Byte :=
  let toned := row.map (toneOf table)
  if depth = 4 then packNibbles toned else toned

/-- R92: the row code of a packed G row after the previous packed row of the group. -/
def codeGRow' (prev : Option (List Byte)) (packed : List Byte) : List Byte :=
  if prev = some packed then [codeGSame] else codeGRow :: packed

end Sys2Proof.Machine
end

