-- ==== Sys2Proof/Machine/Span.lean ====
section
/-! DEFINITION. Chapter 3: the spans of a row, the width rule, and the reduction channel. -/

namespace Sys2Proof.Machine

/-- R41: whether period position `p` is stretched for the stretch `e`: one bit of `e` decides, by how many times 2
divides `p`. -/
def stretched (e p : Nat) : Bool :=
  if p % 2 ≠ 0 then e.testBit 5
  else if p % 4 ≠ 0 then e.testBit 4
  else if p % 8 ≠ 0 then e.testBit 3
  else if p % 16 ≠ 0 then e.testBit 2
  else if p % 32 ≠ 0 then e.testBit 1
  else if p % 64 ≠ 0 then e.testBit 0
  else false

/-- R41: the span of period position `p`. -/
def spanOf (s e p : Nat) : Nat := s + (stretched e p).toNat

/-- Section 3.2: the period position of output pixel `x`. -/
def positionOf (x : Nat) : Nat := x % 64 + 1

/-- R43 step 3: starting with `m` positions added and a running total, adds the spans of positions `m + 1`, … until
the total reaches `r`; answers the positions added and the total. A period has 64 positions. -/
def fillRemainder (s e r : Nat) : Nat → Nat → Nat → Nat × Nat
  | 0, m, total => (m, total)
  | fuel + 1, m, total =>
    if r ≤ total then (m, total) else fillRemainder s e r fuel (m + 1) (total + spanOf s e (m + 1))

/-- R43: the row width W_out and the last span width c of a line of `wIn` pixels. -/
def widthRule (wIn s e : Nat) : Nat × Nat :=
  let period := 64 * s + e
  let q := wIn / period
  let r := wIn - q * period
  if r = 0 then (64 * q, s)
  else
    let (m, total) := fillRemainder s e r 64 0 0
    (64 * q + m, spanOf s e m - (total - r))

/-- R40: a channel set up for an item. -/
def channelSetup (s e v wIn : Nat) : Channel :=
  let (w, c) := widthRule wIn s e
  { active := true, s := s, e := e, v := v, wIn := wIn, wOut := w, c := c, sums := List.replicate w 0 }

/-- R44: one pixel taken by the channel. -/
def channelPixel (ch : Channel) (value : Byte) : Channel :=
  let sums := ch.sums.modify ch.x (· + value.toNat)
  if ch.taken + 1 = spanOf ch.s ch.e ch.p then
    { ch with sums := sums, x := ch.x + 1, p := if ch.p = 64 then 1 else ch.p + 1, taken := 0 }
  else { ch with sums := sums, taken := ch.taken + 1 }

/-- R44: pixels pass to active channels only. -/
def channelTake (value : Byte) (ch : Channel) : Channel := if ch.active then channelPixel ch value else ch

/-- R46: the vertical span of the row with the given index. -/
def verticalSpan (v row : Nat) : Nat :=
  if v % 2 = 0 then 1 + v / 2
  else if row % 2 = 0 then 1 + (v - 1) / 2 + 1
  else 1 + (v - 1) / 2

/-- R48: the samples in the column of output pixel `x`. -/
def sampleCount (ch : Channel) (x : Nat) : Nat :=
  (if x + 1 = ch.wOut then ch.c else spanOf ch.s ch.e (positionOf x)) * ch.linesMerged

/-- R48: the mean of `n` samples that add up to `sum`, an exact half rounded up. -/
def roundedMean (sum n : Nat) : Byte := BitVec.ofNat 8 ((2 * sum + n) / (2 * n))

/-- R48: the grey values of the row being built. -/
def rowValues (ch : Channel) : List Byte := ch.sums.mapIdx fun x sum => roundedMean sum (sampleCount ch x)

/-- R48: the channel after it has emitted a row. -/
def channelAfterRow (ch : Channel) : Channel :=
  { ch with sums := List.replicate ch.wOut 0, linesMerged := 0, rowIndex := ch.rowIndex + 1 }

/-- R45: the end-of-line signal, and the row it completes, if any: its number and its grey values. -/
def channelEndLine (ch : Channel) : Channel × Option (Nat × List Byte) :=
  let ch := { ch with x := 0, p := 1, taken := 0, linesMerged := ch.linesMerged + 1 }
  if ch.linesMerged = verticalSpan ch.v ch.rowIndex then (channelAfterRow ch, some (ch.rowIndex, rowValues ch))
  else (ch, none)

/-- R45: an inactive channel has no end of line. -/
def channelLine (ch : Channel) : Channel × Option (Nat × List Byte) :=
  if ch.active then channelEndLine ch else (ch, none)

/-- R51: a channel dropped by an abort; the row index stands. R51 does not name the span settings, the widths, c and the
position in the line: that they stand until the next ITEM OPEN is the model's choice (log 33). -/
def channelDrop (ch : Channel) : Channel :=
  if ch.active then { ch with active := false, sums := List.replicate ch.wOut 0, linesMerged := 0 } else ch

/-- R50: a channel finished at CLOSING, with its column sums clear, and its partial row, if it has lines. R50 does not name
the span settings, the widths, c and the position in the line: that they stand until the next ITEM OPEN is the model's choice
(log 33). -/
def channelFinish (ch : Channel) : Channel × Option (Nat × List Byte) :=
  if ch.active then
    if 0 < ch.linesMerged then ({ channelAfterRow ch with active := false }, some (ch.rowIndex, rowValues ch))
    else (channelDrop ch, none)
  else (ch, none)

end Sys2Proof.Machine
end

