-- ==== Sys2Proof/Machine/Bands.lean ====
section
/-! DEFINITION. Chapter 4 and the close of a band: Band Pool requests, the band store, and a band turned into a B
segment (R54, R60 to R64, R67, R79 to R81, R88, R90). -/

namespace Sys2Proof.Machine

/-- R24: the band height of a band code. -/
def bandHeight (code : Byte) : Nat := 4 * 2 ^ code.toNat

/-- R54: the band height granted from `free` bytes to a request for `h` rows of `w` bytes: the first of the heights
32, 16, 8, 4, starting from `h`, that fits; none if even 4 does not. -/
def poolGrant (free w h : Nat) : Option Nat :=
  ([32, 16, 8, 4].filter (· ≤ h)).find? fun k => k * w ≤ free

/-- R53: the allocation a lane holds. -/
def allocation (l : Lane) : Nat := if l.snap.bActive then l.snap.h * l.snap.wOutB else 0

/-- The profile fields of the snapshot; all zero while it is empty. -/
def snapRecord (sn : Snapshot) : Record := sn.record.getD {}

/-- R61: the band store of an item opened with B active. -/
def bandSetup (tInit : Nat) : BandStore := { active := true, tPrev := tInit }

/-- R65: the band store emptied by an abort in OPEN, and inactive; its band index and T_prev are kept (R61). R65 does not
name the first row: that it stands until a row or an item sets it is the model's choice (log 31). -/
def bandIdle (st : BandStore) : BandStore := { st with active := false, rows := [], histogram := Vector.replicate 64 0 }

/-- R61: the band store of an item opened without B active: R60's values, but for the band index and T_prev, which are
kept until the lane opens a B-active item (log 20). -/
def bandCleared (st : BandStore) : BandStore := { bandIdle st with firstRow := 0 }

/-- R62: the values of a row added to the bins. -/
def histogramAdd (hist : Vector Nat 64) (row : List Byte) : Vector Nat 64 :=
  row.foldl (fun h g => h.set (g.toNat / 4) (h[g.toNat / 4]'(by have := g.isLt; omega) + 1)
    (by have := g.isLt; omega)) hist

/-- R62: a row taken by an active band store. -/
def bandAddRow (st : BandStore) (rowNo : Nat) (row : List Byte) : BandStore :=
  { st with
    rows := st.rows ++ [row]
    histogram := histogramAdd st.histogram row
    firstRow := if st.rows = [] then rowNo else st.firstRow }

/-- R79, R80: a finished bit row added to the black count and taken from the streak mask. -/
def measureRow (q : Quality) (row : List Bool) : Quality :=
  { q with blackCount := q.blackCount + row.count true, streak := q.streak.zipWith (· && ·) row }

/-- R63 step 5, R64: the store emptied after a close, its T_prev the band's threshold (R67 step 3). That the first row
stands until the next band's first row is taken is the model's choice (log 31). -/
def bandAfterClose (st : BandStore) (tBand : Nat) : BandStore :=
  { st with rows := [], histogram := Vector.replicate 64 0, bandIndex := st.bandIndex + 1, tPrev := tBand }

/-- The threshold context of the band a lane's store hands over (R67 steps 1 and 2). -/
def bandContext (l : Lane) : ThresholdContext :=
  thresholdContext (snapRecord l.snap) l.band.histogram l.band.rows.length l.snap.wOutB l.band.tPrev

/-- R81: the finished bit rows of that band. -/
def bandBitRows (l : Lane) : List (List Bool) :=
  l.band.rows.map (finishedRow (snapRecord l.snap) (bandContext l).tBand)

/-- R90: the B segment of that band. -/
def bandSegment (n : Fin 4) (l : Lane) : Segment :=
  ⟨.bBand l.header.cls.val n l.header.item l.band.bandIndex l.band.firstRow l.band.rows.length (bandContext l).tBand
      l.snap.wOutB l.snap.h,
   (codeBRows none (bandBitRows l)).flatten⟩

/-- R63, R67, R88, R101: the lane after the close of the band its store holds. The Threshold Unit's context and the B
context are empty again (R66, R85). -/
def closeBand (l : Lane) : Lane :=
  let ctx := bandContext l
  let rows := bandBitRows l
  let q := rows.foldl measureRow l.quality
  { l with
    band := bandAfterClose l.band ctx.tBand
    threshold := none
    coder := { l.coder with bContext := none }
    quality := { q with
      z := q.z + ((codeBRows none rows).map List.length).sum
      bands := q.bands + 1
      clamped := q.clamped + ctx.clamped.toNat } }

/-- R62, R63: a B row taken by the lane's band store, and the B segment of the band it fills, if it fills one. -/
def takeBRow (n : Fin 4) (rowNo : Nat) (row : List Byte) (l : Lane) : Lane × Option Segment :=
  if l.band.active then
    let l := { l with band := bandAddRow l.band rowNo row }
    if l.band.rows.length = l.snap.h then (closeBand l, some (bandSegment n l)) else (l, none)
  else (l, none)

/-- R84: the Row Coder's state for an item with G active. -/
def coderSetup (wOutG depth : Nat) (table : Fin 4) : RowCoder :=
  { groupOpen := true, gWidth := wOutG, gDepth := depth, gTable := table }

/-- R93: the G segment of the group buffer. -/
def groupSegment (n : Fin 4) (l : Lane) : Segment :=
  ⟨.gGroup l.header.cls.val n l.header.item l.coder.groupFirstRow l.coder.group.length l.coder.gWidth l.coder.gDepth
      l.coder.gTable,
   l.coder.group.flatten⟩

/-- R93: the group buffer emptied. That the group first row stands until the next group's first row is added is the
model's choice (log 30). -/
def groupEmptied (c : RowCoder) : RowCoder := { c with group := [], prevPacked := none }

/-- R91 to R93: a G row packed and added to the group buffer; an empty buffer has no previous packed row. -/
def groupAddRow (table : Vector Byte 256) (c : RowCoder) (rowNo : Nat) (row : List Byte) : RowCoder :=
  let packed := packGRow table c.gDepth row
  { c with
    group := c.group ++ [codeGRow' (if c.group = [] then none else c.prevPacked) packed]
    groupFirstRow := if c.group = [] then rowNo else c.groupFirstRow
    prevPacked := some packed }

/-- R91 to R93: a G row taken by the lane's Row Coder, and the G segment of the group it fills, if it fills one. -/
def takeGRow (table : Vector Byte 256) (n : Fin 4) (rowNo : Nat) (row : List Byte) (l : Lane) : Lane × Option Segment :=
  if l.coder.groupOpen then
    let l := { l with coder := groupAddRow table l.coder rowNo row }
    if l.coder.group.length = 4 then ({ l with coder := groupEmptied l.coder }, some (groupSegment n l)) else (l, none)
  else (l, none)

/-- R115: the bytes of the segments a store holds. -/
def storeUsed (segs : List Segment) : Nat := (segs.map segSize).sum

/-- R115: the free space of a lane's output store. -/
def storeFree (l : Lane) : Nat := storeBytes - storeUsed l.store

/-- R94: a segment built while OPEN, offered to the lane's output store: queued if it fits, dropped with OUTPUT_LOST
otherwise. -/
def offer (seg : Segment) (l : Lane) : Lane :=
  if segSize seg ≤ storeFree l then { l with store := l.store ++ [seg] }
  else
    { l with
      flags := { l.flags with outputLost := true }
      quality := { l.quality with dropped := l.quality.dropped + 1 } }

/-- R94: no segment was built. -/
def offerOption (seg : Option Segment) (l : Lane) : Lane :=
  match seg with
  | none => l
  | some g => offer g l

end Sys2Proof.Machine
end

