-- ==== Sys2Proof/Machine/Quality.lean ====
section
/-! DEFINITION. Chapter 7: the quality checks, the disposition and the result record. -/

namespace Sys2Proof.Machine

/-- R109: the dispositions. -/
inductive Disposition where
  | accept | review | partialItem | reject
  deriving DecidableEq, Repr

/-- R170: the disposition values. -/
def dispositionByte : Disposition → Byte
  | .accept => 0 | .review => 1 | .partialItem => 2 | .reject => 3

/-- R104: the black per-mille of an item. -/
def blackPerMille (black bRows wOutB : Nat) : Nat := if bRows = 0 then 0 else 1000 * black / (bRows * wOutB)

/-- R106: the streak count; 0 for an item whose band count is 0. -/
def streakCount (q : Quality) : Nat := if q.bands = 0 then 0 else q.streak.count true

/-- R104: the item's D. -/
def itemD (l : Lane) : Nat := blackPerMille l.quality.blackCount l.b.rowIndex l.snap.wOutB

/-- R107: whether the item's checks are evaluated: from OPEN and not ABORTED. -/
def checksEvaluated (l : Lane) : Bool := l.reason == .none && !l.flags.aborted

/-- R103 to R107: the quality flags; a skipped check leaves its flag clear. -/
def qualityFlags (l : Lane) : QualityFlags :=
  let r := snapRecord l.snap
  let lines := checksEvaluated l
  let picture := lines && l.snap.bActive
  { short := lines && decide (l.lineCount < r.lMin.toNat)
    long := lines && decide (r.lMax.toNat < l.lineCount)
    light := picture && decide (itemD l < r.dMin.toNat)
    dark := picture && decide (r.dMax.toNat < itemD l)
    small := picture && decide (l.quality.z < r.zMin.toNat)
    large := picture && decide (r.zMax.toNat < l.quality.z)
    streak := picture && r.streakLimit != 0 && decide (r.streakLimit.toNat ≤ streakCount l.quality) }

/-- R109: the disposition of an item, the first that applies. -/
def dispositionOf (reason : Reason) (flags : ProcFlags) (quality : QualityFlags) : Disposition :=
  if reason ≠ .none then .reject
  else if anyPartialFlag flags then .partialItem
  else if anyQualityFlag quality then .review
  else .accept

/-- R110: the fields of the result record. -/
structure ResultRecord where
  disposition : Disposition
  reason      : Reason
  processing  : ProcFlags
  quality     : QualityFlags
  profile     : Byte
  side        : Byte
  cls         : Nat
  lines       : Nat
  wIn         : Nat
  wOutB       : Nat
  wOutG       : Nat
  h           : Nat
  bRows       : Nat
  gRows       : Nat
  bands       : Nat
  clamped     : Nat
  d           : Nat
  z           : Nat
  streaks     : Nat
  shortLines  : Nat
  longLines   : Nat
  parity      : Nat
  dropped     : Nat
  deriving DecidableEq, Repr

/-- R110, R170: the record's 43 bytes. -/
def resultBytes (r : ResultRecord) : List Byte :=
  [dispositionByte r.disposition, reasonByte r.reason] ++ beBytes 2 (procFlagBits r.processing)
    ++ beBytes 1 (qualityFlagBits r.quality) ++ [r.profile, r.side] ++ beBytes 1 r.cls
    ++ beBytes 2 r.lines ++ beBytes 2 r.wIn ++ beBytes 2 r.wOutB ++ beBytes 2 r.wOutG ++ beBytes 1 r.h
    ++ beBytes 2 r.bRows ++ beBytes 2 r.gRows ++ beBytes 2 r.bands ++ beBytes 2 r.clamped ++ beBytes 2 r.d
    ++ beBytes 4 r.z ++ beBytes 2 r.streaks ++ beBytes 2 r.shortLines ++ beBytes 2 r.longLines
    ++ beBytes 4 r.parity ++ beBytes 2 r.dropped

/-- R110: the result record of a lane's item, from the sources the table names. -/
def resultRecord (l : Lane) : ResultRecord where
  disposition := dispositionOf l.reason l.flags (qualityFlags l)
  reason      := l.reason
  processing  := l.flags
  quality     := qualityFlags l
  profile     := l.header.profile
  side        := l.header.side
  cls         := l.header.cls.val
  lines       := l.lineCount
  wIn         := l.header.wIn.toNat
  wOutB       := l.snap.wOutB
  wOutG       := l.snap.wOutG
  h           := l.snap.h
  bRows       := l.b.rowIndex
  gRows       := l.g.rowIndex
  bands       := l.quality.bands
  clamped     := l.quality.clamped
  d           := itemD l
  z           := l.quality.z
  streaks     := streakCount l.quality
  shortLines  := l.shortLines
  longLines   := l.longLines
  parity      := l.parityPixels
  dropped     := l.quality.dropped

/-- R111: the result segment. -/
def resultSegment (n : Fin 4) (l : Lane) : Segment :=
  ⟨.result l.header.cls.val n l.header.item, resultBytes (resultRecord l)⟩

/-- R102: the lane with its result record composed and held. -/
def compose (n : Fin 4) (l : Lane) : Lane :=
  { l with quality := { l.quality with composed := some (resultSegment n l) } }

end Sys2Proof.Machine
end

