-- ==== Sys2Proof/Machine/Items.lean ====
section
/-! DEFINITION. Chapter 1, within one lane: opening an item, its lines, its closing work, its abort. -/

namespace Sys2Proof.Machine

/-! ## Opening -/

/-- R3: the bytes of a header field, 0 unless all its symbols arrived (log 15). `offset` counts from the lane symbol. -/
def headerField (syms : List Symbol) (offset size : Nat) : Nat :=
  if offset + size ≤ syms.length then fieldAt (symValues syms) offset size else 0

/-- R3: a class above 1 is recorded as 1. -/
def recordedClass (v : Nat) : Fin 2 := if v = 0 then 0 else 1

/-- R3, R168: the header recorded from an ITEM OPEN's first ten data symbols. -/
def headerOf (syms : List Symbol) : ItemHeader where
  item    := BitVec.ofNat 32 (headerField syms 1 4)
  profile := BitVec.ofNat 8 (headerField syms 5 1)
  side    := BitVec.ofNat 8 (headerField syms 6 1)
  cls     := recordedClass (headerField syms 7 1)
  wIn     := BitVec.ofNat 16 (headerField syms 8 2)

/-- R3: whether a header is refused with BAD_HEADER. Fewer than ten data symbols arrive when L is below 10 or the unit
ends early. -/
def badHeader (syms : List Symbol) (h : ItemHeader) : Bool :=
  decide (syms.length < 10) || (syms.drop 1).any parityError
    || decide (h.wIn.toNat < 16) || decide (2048 < h.wIn.toNat)
    || decide (1 < h.side.toNat) || decide (15 < h.profile.toNat)

/-- R4 step 1, R5, R100: the lane with the previous item's counts, flags, reason and measures cleared and the new header
recorded. The output store keeps its segments. Channels start from R39's values (R40), the Row Coder from R84's, the
stall timer from 0. -/
def clearItem (h : ItemHeader) (l : Lane) : Lane :=
  { state := .idle, header := h, taking := .dropping, band := bandCleared l.band, store := l.store }

/-- R5: the lane in DISCARD, the header refused with `reason`. -/
def discardItem (h : ItemHeader) (reason : Reason) (l : Lane) : Lane :=
  { clearItem h l with state := .discard, reason := reason }

/-- R43: W_outB of an item, 0 if B is not enabled (R4 step 4). -/
def itemWidthB (r : Record) (wIn : Nat) : Nat :=
  if r.bEnable = 1 then (widthRule wIn r.sB.toNat r.eB.toNat).1 else 0

/-- R43: W_outG of an item, 0 if G is not enabled (R4 step 4). -/
def itemWidthG (r : Record) (wIn : Nat) : Nat :=
  if r.gEnable = 1 then (widthRule wIn r.sG.toNat r.eG.toNat).1 else 0

/-- R4 step 5, R54: the height the Band Pool grants the item, if B is enabled and any fits. -/
def itemGrant (r : Record) (wIn free : Nat) : Option Nat :=
  if r.bEnable = 1 then poolGrant free (itemWidthB r wIn) (bandHeight r.bandCode) else none

/-- R1: the tone table that a record names; an accepted record names 0 to 3 (R26). -/
def recordTone (r : Record) : Fin 4 := Fin.ofNat 4 r.toneTable.toNat

/-- R4, R40, R54, R55, R61, R84, R100: the lane with an item opened on the record `r`, the Band Pool having `free`
bytes free. -/
def openItem (h : ItemHeader) (r : Record) (free : Nat) (l : Lane) : Lane :=
  let wIn := h.wIn.toNat
  let wB := itemWidthB r wIn
  let wG := itemWidthG r wIn
  let grant := itemGrant r wIn free
  let gOn := r.gEnable = 1
  let base := clearItem h l
  { base with
    state := .opened
    snap := { record := some r, wOutB := wB, wOutG := wG, h := grant.getD 0, bActive := grant.isSome, gActive := gOn }
    flags :=
      { bDropped := decide (r.bEnable = 1) && grant.isNone
        bandReduced := grant.isSome && decide (grant.getD 0 < bandHeight r.bandCode) }
    b := if grant.isSome then channelSetup r.sB.toNat r.eB.toNat r.vB.toNat wIn else {}
    g := if gOn then channelSetup r.sG.toNat r.eG.toNat r.vG.toNat wIn else {}
    band := if grant.isSome then bandSetup r.tInit.toNat else base.band
    coder := if gOn then coderSetup wG r.gDepth.toNat (recordTone r) else {}
    quality := { streak := if grant.isSome then List.replicate wB true else [] } }

/-! ## Lines -/

/-- R9: a LINE taken in OPEN: the stall timer restarts; the line is counted, or capped. -/
def beginLine (l : Lane) : Lane :=
  if l.lineCount < lineCap then
    { l with stallTimer := 0, lineCount := l.lineCount + 1, taking := .line 0 255 }
  else { l with stallTimer := 0, flags := { l.flags with lineCap := true }, taking := .dropping }

/-- R12: a LINE taken in DISCARD: counted or capped, its pixels dropped. -/
def discardLine (l : Lane) : Lane :=
  if l.lineCount < lineCap then { l with stallTimer := 0, lineCount := l.lineCount + 1, taking := .dropping }
  else { l with stallTimer := 0, flags := { l.flags with lineCap := true }, taking := .dropping }

/-- R9, R44: one pixel value passed to the lane's channels. -/
def passPixel (v : Byte) (l : Lane) : Lane := { l with b := channelTake v l.b, g := channelTake v l.g }

/-- R11: the value passed on for a pixel symbol after the value `prev`. -/
def pixelValue (prev : Byte) (sym : Symbol) : Byte := if parityError sym then prev else symValue sym

/-- R11: the parity-pixel count and flag after a pixel symbol. -/
def countParity (sym : Symbol) (l : Lane) : Lane :=
  if parityError sym then
    { l with parityPixels := l.parityPixels + 1, flags := { l.flags with pixelParity := true } }
  else l

/-- R10, R11: a pixel symbol below W_in, of a line of which `arrived` pixels have arrived. -/
def takePixel (arrived : Nat) (prev : Byte) (sym : Symbol) (l : Lane) : Lane :=
  let v := pixelValue prev sym
  { passPixel v (countParity sym l) with taking := .line (arrived + 1) v }

/-- R10: a pixel symbol at or beyond W_in: dropped; the first one makes the line a long one (log 16). -/
def surplusPixel (arrived : Nat) (prev : Byte) (l : Lane) : Lane :=
  if arrived = l.header.wIn.toNat then
    { l with longLines := l.longLines + 1, flags := { l.flags with longLines := true }, taking := .line (arrived + 1) prev }
  else { l with taking := .line (arrived + 1) prev }

/-- R10: the missing pixels of a short line supplied as 255. -/
def supplyPixels : Nat → Lane → Lane
  | 0, l => l
  | k + 1, l => supplyPixels k (passPixel 255 l)

/-- R10: the short-line count and flag. -/
def countShort (l : Lane) : Lane :=
  { l with shortLines := l.shortLines + 1, flags := { l.flags with shortLines := true } }

/-- R45, R49, R62: the end of the line in the B channel, and the B segment it builds. -/
def endLineB (n : Fin 4) (l : Lane) : Lane × Option Segment :=
  match channelLine l.b with
  | (ch, none) => ({ l with b := ch }, none)
  | (ch, some (rowNo, row)) => takeBRow n rowNo row { l with b := ch }

/-- R45, R49, R91: the end of the line in the G channel, and the G segment it builds. -/
def endLineG (table : Vector Byte 256) (n : Fin 4) (l : Lane) : Lane × Option Segment :=
  match channelLine l.g with
  | (ch, none) => ({ l with g := ch }, none)
  | (ch, some (rowNo, row)) => takeGRow table n rowNo row { l with g := ch }

/-- R45, R94, R95: the end-of-line signal. Where both channels complete a segment, `gFirst` offers the G segment
first. -/
def endLine (table : Vector Byte 256) (gFirst : Bool) (n : Fin 4) (l : Lane) : Lane :=
  let (l, segB) := endLineB n l
  let (l, segG) := endLineG table n l
  match segB, segG with
  | some b, some g => if gFirst then offer b (offer g l) else offer g (offer b l)
  | b, g => offerOption g (offerOption b l)

/-! ## Closing -/

/-- R18 step 1, R50: the B channel finished; a band its partial row fills gives the final B segment (R64). -/
def finishB (n : Fin 4) (l : Lane) : Lane :=
  match channelFinish l.b with
  | (ch, none) => { l with b := ch }
  | (ch, some (rowNo, row)) =>
    match takeBRow n rowNo row { l with b := ch } with
    | (l, none) => l
    | (l, some seg) => { l with coder := { l.coder with finalB := some seg } }

/-- R18 step 1, R50: the G channel finished; a group its partial row fills gives the final G segment (R93). -/
def finishG (table : Vector Byte 256) (n : Fin 4) (l : Lane) : Lane :=
  match channelFinish l.g with
  | (ch, none) => { l with g := ch }
  | (ch, some (rowNo, row)) =>
    match takeGRow table n rowNo row { l with g := ch } with
    | (l, none) => l
    | (l, some seg) => { l with coder := { l.coder with finalG := some seg } }

/-- R18 step 2, R64: the partial band, if rows are held, closed as the final B segment; the band store inactive. -/
def finishBand (n : Fin 4) (l : Lane) : Lane :=
  if l.band.active && l.band.rows != [] then
    let seg := bandSegment n l
    let l := closeBand l
    { l with band := { l.band with active := false }, coder := { l.coder with finalB := some seg } }
  else { l with band := { l.band with active := false } }

/-- R18 step 3, R93: the partial group, if rows are held, built as the final G segment; the group context closed. -/
def finishGroup (n : Fin 4) (l : Lane) : Lane :=
  if l.coder.groupOpen && l.coder.group != [] then
    { l with coder := { groupEmptied l.coder with groupOpen := false, finalG := some (groupSegment n l) } }
  else { l with coder := { l.coder with groupOpen := false } }

/-- R18: the closing work of an item that enters CLOSING from OPEN by a cause other than ABORT LANE. -/
def closingWork (table : Vector Byte 256) (n : Fin 4) (l : Lane) : Lane :=
  compose n (finishGroup n (finishBand n (finishG table n (finishB n { l with state := .closing }))))

/-- R18: a lane enters CLOSING, from OPEN with the closing work, from DISCARD with the result record alone. -/
def enterClosing (table : Vector Byte 256) (n : Fin 4) (l : Lane) : Lane :=
  match l.state with
  | .opened => closingWork table n l
  | .discard => compose n { l with state := .closing }
  | .idle | .closing => l

/-- R13: the declared line count that an ITEM CLOSE carries, if it can be read: three data symbols, neither count symbol
in error. -/
def declaredCount (syms : List Symbol) : Option Nat :=
  if syms.length < 3 || (syms.drop 1).any parityError then none else some (headerField syms 1 2)

/-- R13: the lane with COUNT_MISMATCH added if the close's count check fails. -/
def countCheck (syms : List Symbol) (l : Lane) : Lane :=
  if declaredCount syms = some l.lineCount then l else { l with flags := { l.flags with countMismatch := true } }

/-! ## Abort -/

/-- R21, R51, R65, R97: an item aborted in OPEN: all its partial output dropped, its result composed unevaluated. R97 names
the group buffer with its row count, the previous packed row and the group context; that the G settings and the group
first row stand until the next ITEM OPEN is the model's choice (log 30). -/
def abortOpen (n : Fin 4) (l : Lane) : Lane :=
  compose n
    { l with
      state := .closing
      flags := { l.flags with aborted := true }
      b := channelDrop l.b
      g := channelDrop l.g
      band := bandIdle l.band
      coder := { groupEmptied l.coder with groupOpen := false } }

/-- R21: an item aborted in DISCARD. -/
def abortDiscard (n : Fin 4) (l : Lane) : Lane :=
  compose n { l with state := .closing, flags := { l.flags with aborted := true } }

/-- R20, R112: an item aborted in CLOSING: its final segments discarded, its result composed again. -/
def abortClosing (n : Fin 4) (l : Lane) : Lane :=
  compose n
    { l with
      flags := { l.flags with aborted := true }
      coder := { l.coder with finalB := none, finalG := none } }

/-- R20, R21: whether ABORT LANE changes anything in a lane: not one that is IDLE, nor one in CLOSING with ABORTED already
set. -/
def abortActs (l : Lane) : Bool := l.state != .idle && !(l.state == .closing && l.flags.aborted)

/-- R21: ABORT LANE on a lane, according to its state. -/
def abortItem (n : Fin 4) (l : Lane) : Lane :=
  match l.state with
  | .opened => abortOpen n l
  | .discard => abortDiscard n l
  | .closing => abortClosing n l
  | .idle => l

/-! ## The end of CLOSING -/

/-- R19: the segments a lane in CLOSING queues: final B, final G, result. -/
def finalSegments (l : Lane) : List Segment :=
  l.coder.finalB.toList ++ l.coder.finalG.toList ++ l.quality.composed.toList

/-- R19: whether the lane's CLOSING wait ends: it is in CLOSING with its result composed, and its store has room for all
its final segments. -/
def canQueue (l : Lane) : Bool :=
  l.state == .closing && l.quality.composed.isSome && decide (storeUsed (finalSegments l) ≤ storeFree l)

/-- R19, R96, R102: the lane after it has queued its segments: IDLE, its snapshot empty. -/
def queueFinal (l : Lane) : Lane :=
  { l with
    state := .idle
    snap := {}
    coder := { l.coder with finalB := none, finalG := none }
    quality := { l.quality with composed := none }
    store := l.store ++ finalSegments l }

/-! ## The stall timer -/

/-- R15: the stall limit of the lane's item. -/
def stallLimitOf (l : Lane) : Nat :=
  match l.state with
  | .opened => (snapRecord l.snap).stallLimit.toNat
  | .discard => discardStallLimit
  | .idle | .closing => 0

/-- R15: whether the lane's stall timer can count: OPEN or DISCARD, with a limit other than 0. -/
def timerRuns (l : Lane) : Bool := (l.state == .opened || l.state == .discard) && stallLimitOf l != 0

end Sys2Proof.Machine
end

