-- ==== Sys2Proof/Machine/Ops.lean ====
section
/-! DEFINITION. The named operations over the whole state: field updates, USTOP#, counters and flags, the Transit FIFO,
the reply queue, and the lane operations that reach the Band Pool, the Table Store or the Request Unit. -/

namespace Sys2Proof.Machine

/-! ## Updates -/

def State.withLrx (s : State) (v : Lrx) : State := { s with lrx := v }
def State.withTransit (s : State) (v : List TransitSymbol) : State := { s with transit := v }
def State.withPool (s : State) (v : Nat) : State := { s with pool := v }
def State.withReplies (s : State) (v : List Segment) : State := { s with replies := v }
def State.withEtx (s : State) (v : Etx) : State := { s with etx := v }
def State.withTables (s : State) (v : TableStore) : State := { s with tables := v }
def State.withReq (s : State) (v : RequestUnit) : State := { s with req := v }
def State.withBoot (s : State) (v : BootLoader) : State := { s with boot := v }
def State.withTime (s : State) (v : TimeBase) : State := { s with time := v }
def State.withDtx (s : State) (v : List Symbol) : State := { s with dtx := v }
def State.withBus (s : State) (v : List BusEvent) : State := { s with bus := v }
def State.withOrder (s : State) (v : Nat) : State := { s with orderIndex := v }
def State.withStartUp (s : State) (v : Bool) : State := { s with startUp := v }
def State.withDstop (s : State) (v : Bool) : State := { s with dstop := v }
def State.withPending (s : State) (v : List Instr) : State := { s with pending := v }

/-- R161: events on the two-wire bus, in order. -/
def State.putBus (events : List BusEvent) (s : State) : State := s.withBus (events.reverse ++ s.bus)

/-- Lane `n`. -/
def State.lane (s : State) (n : Fin 4) : Lane := s.lanes[n]

/-- The state with lane `n` replaced. -/
def State.setLane (s : State) (n : Fin 4) (l : Lane) : State := { s with lanes := s.lanes.set n l }

/-- The tone table that lane `n`'s Row Coder reads, as it stands (R30, R91). -/
def State.laneTone (s : State) (n : Fin 4) : Vector Byte 256 := s.tables.tones[(s.lane n).coder.gTable]

/-! ## USTOP# -/

/-- R125, R146: ETX waits for a data symbol of a transit unit it has begun. -/
def State.etxWaits (s : State) : Bool :=
  match s.etx.current with
  | some { what := .transit _, .. } => s.transit == []
  | _ => false

/-- R146: some lane's output store has less than the stop reserve free. -/
def State.storeLow (s : State) : Bool := s.lanes.toList.any fun l => decide (storeFree l < stopReserve)

/-- R146: USTOP# is asserted. -/
def State.ustop (s : State) : Bool :=
  s.resetLine || s.startUp || s.boot.phase != .idle || s.lrx.hold.isSome
    || decide (transitStop < s.transit.length) || (s.storeLow && !s.etxWaits)

/-- R143: LRX is free to take a symbol. -/
def State.lrxFree (s : State) : Bool := s.lrx.hold.isNone && !s.resetLine && !s.startUp

/-! ## Counters and event flags (R153) -/

def State.countStray (s : State) : State :=
  s.withReq { s.req with stray := raiseCounter 1 s.req.stray, events := { s.req.events with stray := true } }

def State.countTagParity (s : State) : State :=
  s.withReq { s.req with tagParity := raiseCounter 1 s.req.tagParity, events := { s.req.events with tagParity := true } }

def State.countExtraData (s : State) : State :=
  s.withReq { s.req with extraData := raiseCounter 1 s.req.extraData }

def State.countRxOverrun (s : State) : State :=
  s.withReq { s.req with rxOverrun := raiseCounter 1 s.req.rxOverrun, events := { s.req.events with rxOverrun := true } }

/-- R145: `k` transit symbols dropped. -/
def State.countTransitOverrun (k : Nat) (s : State) : State :=
  s.withReq
    { s.req with txOverrun := raiseCounter k s.req.txOverrun, events := { s.req.events with transitOverrun := true } }

/-! ## The Transit FIFO (R144, R145) -/

/-- The end mark put on the last symbol of a list. -/
def markLast : List TransitSymbol → List TransitSymbol
  | [] => []
  | [t] => [{ t with endMark := true }]
  | t :: rest => t :: markLast rest

/-- R144: a transit unit ends at the last symbol written for it. Where that symbol has already left, the unit that ETX is
sending ends in this event (log 12). -/
def State.endTransit (s : State) : State :=
  if s.transit = [] then
    match s.etx.current with
    | some { what := .transit _, .. } => s.withEtx { s.etx with current := none }
    | _ => s
  else s.withTransit (markLast s.transit)

/-- R144, R145: a transit unit's three header symbols, written if three places are free; answers whether they were. -/
def State.writeHeader (tag hi lo : Symbol) (s : State) : State × Bool :=
  if s.transit.length + 3 ≤ transitPlaces then
    (s.withTransit (s.transit ++ [⟨tag, false⟩, ⟨hi, false⟩, ⟨lo, false⟩]), true)
  else (s.countTransitOverrun 3, false)

/-- R144, R145: a data symbol of a transit unit that is `written` so far; answers whether it still is. -/
def State.writeData (sym : Symbol) (written : Bool) (s : State) : State × Bool :=
  if written then
    if s.transit.length < transitPlaces then (s.withTransit (s.transit ++ [⟨sym, false⟩]), true)
    else ((s.endTransit).countTransitOverrun 1, false)
  else (s.countTransitOverrun 1, false)

/-- The data symbols of a transit unit, in order. -/
def State.writeAll : List Symbol → Bool → State → State × Bool
  | [], written, s => (s, written)
  | sym :: rest, written, s => State.writeAll rest (s.writeData sym written).2 (s.writeData sym written).1

/-- R142, R145: a request copy written as a transit unit whose symbols are all taken now, `cut` its truncation mark. -/
def State.writeCopySymbols (copy : List Symbol) (cut : Bool) (s : State) : State :=
  match copy with
  | tag :: hi :: lo :: data =>
    let (s, written) := s.writeHeader tag hi lo
    let (s, written) := s.writeAll data written
    if cut && written then s.endTransit else s
  | _ => s

/-- R142: the request copy is written and is empty again. An addressed request has none. -/
def State.writeCopy (s : State) : State :=
  (s.writeCopySymbols s.lrx.copy s.lrx.copyCut).withLrx { s.lrx with copy := [], copyCut := false }

/-! ## Replies (R118, R151) -/

/-- R151: a reply joins the tail of the reply queue, and replies owed falls by one. -/
def State.answer (tag kind : Byte) (code : ReplyCode) (body : List Byte) (s : State) : State :=
  (s.withReplies (s.replies ++ [⟨.reply tag kind code s.partAddress, body⟩])).withReq { s.req with owed := s.req.owed - 1 }

/-! ## Lane operations on the state -/

/-- R94: OUTPUT_LOST_SEEN is set in the event in which a lane's dropped-segment count rises. -/
def State.noteLost (before after : Lane) (s : State) : State :=
  if before.quality.dropped < after.quality.dropped then
    s.withReq { s.req with events := { s.req.events with outputLost := true } }
  else s

/-- R45: the end-of-line signal of lane `n`. -/
def State.endLineOf (n : Fin 4) (s : State) : State :=
  let l := s.lane n
  let l' := endLine (s.laneTone n) (Config.groupFirst s.orderIndex) n l
  ((s.setLane n l').noteLost l l').withOrder (s.orderIndex + 1)

/-- R53, R57: the free count raised by a released allocation. -/
def State.releasePool (bytes : Nat) (s : State) : State := s.withPool (s.pool + bytes)

/-- R31: the in-use count of a tone table raised. -/
def raiseInUse (t : TableStore) (k : Fin 4) : TableStore := { t with inUse := t.inUse.set k (t.inUse[k] + 1) }

/-- R31: the in-use count of a tone table lowered. -/
def lowerInUse (t : TableStore) (k : Fin 4) : TableStore := { t with inUse := t.inUse.set k (t.inUse[k] - 1) }

/-- R31: an item opened with G active raises the in-use count of the tone table that its record names. -/
def State.raiseTone (sn : Snapshot) (s : State) : State :=
  if sn.gActive then s.withTables (raiseInUse s.tables (recordTone (snapRecord sn))) else s

/-- R31: an item that leaves CLOSING with G active lowers that count. -/
def State.lowerTone (sn : Snapshot) (s : State) : State :=
  if sn.gActive then s.withTables (lowerInUse s.tables (recordTone (snapRecord sn))) else s

/-- R153: the items-completed counter of lane `n` raised by one; it wraps. -/
def State.countItem (n : Fin 4) (s : State) : State :=
  s.withReq
    { s.req with
      itemsCompleted := s.req.itemsCompleted.set n ((s.req.itemsCompleted[n] + 1) % itemsWrap) }

/-- R19, R31, R57, R153: lane `n` ends its CLOSING wait: it queues its final segments and enters IDLE, its allocation
and in-use count are released, and its items-completed counter is raised. -/
def State.endClosing (n : Fin 4) (s : State) : State :=
  ((((s.setLane n (queueFinal (s.lane n))).releasePool (allocation (s.lane n))).lowerTone (s.lane n).snap)).countItem n

/-- R19: lane `n` tests its CLOSING wait. -/
def State.tryQueue (n : Fin 4) (s : State) : State := if canQueue (s.lane n) then s.endClosing n else s

/-- R18, R19: lane `n` enters CLOSING, and queues at once if its store has room. -/
def State.closeLane (n : Fin 4) (s : State) : State :=
  (s.setLane n (enterClosing (s.laneTone n) n (s.lane n))).tryQueue n

/-- R3 to R5: the check of an ITEM OPEN taken by lane `n`, on the data symbols that arrived. -/
def State.checkOpen (n : Fin 4) (syms : List Symbol) (s : State) : State :=
  let h := headerOf syms
  let l := s.lane n
  if badHeader syms h then s.setLane n (discardItem h .badHeader l)
  else
    let slot := s.tables.profiles[Fin.ofNat 16 h.profile.toNat]
    if slot.valid then
      let l' := openItem h slot.record s.pool l
      ((s.setLane n l').withPool (s.pool - allocation l')).raiseTone l'.snap
    else s.setLane n (discardItem h .noProfile l)

/-- R13: the check of an ITEM CLOSE taken by lane `n` in OPEN, and its entry into CLOSING. -/
def State.checkClose (n : Fin 4) (syms : List Symbol) (s : State) : State :=
  (s.setLane n (countCheck syms { s.lane n with taking := .dropping })).closeLane n

/-- R10, R45: the line that lane `n` is taking ends; a short one is made up with white pixels. -/
def State.completeLine (n : Fin 4) (arrived : Nat) (s : State) : State :=
  let l := s.lane n
  if arrived < l.header.wIn.toNat then
    (s.setLane n (supplyPixels (l.header.wIn.toNat - arrived) (countShort l))).endLineOf n
  else s

/-- R9 to R11: a pixel symbol of the line that lane `n` is taking; the W_in-th ends the line (log 16). -/
def State.pixel (n : Fin 4) (arrived : Nat) (prev : Byte) (sym : Symbol) (s : State) : State :=
  let l := s.lane n
  if arrived < l.header.wIn.toNat then
    let s := s.setLane n (takePixel arrived prev sym l)
    if arrived + 1 = l.header.wIn.toNat then s.endLineOf n else s
  else s.setLane n (surplusPixel arrived prev l)

/-- R2: a data symbol of the unit that lane `n` has taken. -/
def State.laneData (n : Fin 4) (sym : Symbol) (s : State) : State :=
  match (s.lane n).taking with
  | .none | .dropping => s
  | .header syms =>
    if syms.length + 1 = 10 then s.checkOpen n (syms ++ [sym])
    else s.setLane n { s.lane n with taking := .header (syms ++ [sym]) }
  | .line arrived prev => s.pixel n arrived prev sym
  | .close syms =>
    if syms.length + 1 = 3 then s.checkClose n (syms ++ [sym])
    else s.setLane n { s.lane n with taking := .close (syms ++ [sym]) }

/-- R3, R10, R13: the end, whole or early, of the unit that lane `n` has taken. -/
def State.laneUnitEnd (n : Fin 4) (s : State) : State :=
  let s :=
    match (s.lane n).taking with
    | .none | .dropping => s
    | .header syms => s.checkOpen n syms
    | .line arrived _ => s.completeLine n arrived
    | .close syms => s.checkClose n syms
  s.setLane n { s.lane n with taking := .none }

/-- R7, R8: an ITEM OPEN presented to lane `n` in OPEN or DISCARD supersedes its item. -/
def State.supersede (n : Fin 4) (s : State) : State :=
  (s.setLane n { s.lane n with flags := { (s.lane n).flags with superseded := true } }).closeLane n

/-- R20, R21: ABORT LANE acts on lane `n`; a lane then in CLOSING with room queues in the same event (R19). -/
def State.abort (n : Fin 4) (s : State) : State :=
  if abortActs (s.lane n) then (s.setLane n (abortItem n (s.lane n))).tryQueue n else s

/-- R16: the expiry of lane `n`'s stall timer: the unit arriving for the lane ends, STALLED is added, and the lane enters
CLOSING with no count check. -/
def State.expire (n : Fin 4) (s : State) : State :=
  let s :=
    match (s.lane n).taking with
    | .none => s
    | .line arrived _ =>
      let s := s.completeLine n arrived
      s.setLane n { s.lane n with taking := .dropping }
    | .header _ | .close _ | .dropping => s.setLane n { s.lane n with taking := .dropping }
  (s.setLane n { s.lane n with flags := { (s.lane n).flags with stalled := true } }).closeLane n

end Sys2Proof.Machine
end

