-- ==== Sys2Proof/Machine/Tables.lean ====
section
/-! DEFINITION. Chapter 2: the Table Store's checks and writes, and the Time Base's restart (R26 to R36, R166). -/

namespace Sys2Proof.Machine

/-! ## The record checks (R26) -/

/-- R24: the accepted values of S. -/
def spanOk (b : Byte) : Bool := 1 ≤ b.toNat && b.toNat ≤ 15

/-- R26 check 2: every field lies within its accepted values. -/
def recordInRange (r : Record) : Bool :=
  r.bEnable.toNat ≤ 1 && spanOk r.sB && r.eB.toNat ≤ 63 && r.vB.toNat ≤ 14 && r.bandCode.toNat ≤ 3
    && r.mode.toNat ≤ 1 && r.despeckle.toNat ≤ 1 && r.gEnable.toNat ≤ 1 && spanOk r.sG && r.eG.toNat ≤ 63
    && r.vG.toNat ≤ 14 && (r.gDepth == 4 || r.gDepth == 8) && r.toneTable.toNat ≤ 3
    && r.dMin.toNat ≤ 1000 && r.dMax.toNat ≤ 1000

/-- R26 check 3: the record is consistent. -/
def recordConsistent (r : Record) : Bool :=
  r.tMin.toNat ≤ r.tInit.toNat && r.tInit.toNat ≤ r.tMax.toNat && r.lMin.toNat ≤ r.lMax.toNat
    && r.dMin.toNat ≤ r.dMax.toNat && r.zMin.toNat ≤ r.zMax.toNat

/-- A record that LOAD PROFILE would accept. -/
def recordOk (r : Record) : Bool := recordInRange r && recordConsistent r

/-! ## Table writes -/

/-- R27, R36: a profile replaced whole and its valid flag set. -/
def setProfile (t : TableStore) (k : Fin 16) (r : Record) : TableStore :=
  { t with profiles := t.profiles.set k { valid := true, record := r } }

/-- 256 entry values as a table. -/
def toneTableOf (entries : List Byte) : Vector Byte 256 := Vector.ofFn fun i => entries.getD i.val 0

/-- R32, R36: the 256 entries of a tone table replaced. -/
def setTone (t : TableStore) (k : Fin 4) (entries : List Byte) : TableStore :=
  { t with tones := t.tones.set k (toneTableOf entries) }

/-- R35, R36: the Time Base setting replaced. -/
def setTimebase (t : TableStore) (code divisor : Nat) : TableStore := { t with prescale := code, divisor := divisor }

/-- R36, R163: an image's staging buffer written: time base, then profiles, then tones, each in image order. -/
def applyStaging (t : TableStore) (g : Staging) : TableStore :=
  let t := setTimebase t g.prescale g.divisor
  let t := g.profiles.foldl (fun t e => setProfile t e.1 e.2) t
  g.tones.foldl (fun t e => setTone t e.1 e.2) t

/-! ## What the Table Store answers to a request (R152): the store after it, the code, the body -/

/-- R26, R27: LOAD PROFILE on its operands, the index and the record. -/
def tableLoadProfile (t : TableStore) (index : Byte) (record : List Byte) : TableStore × ReplyCode :=
  if h : index.toNat < 16 then
    if recordOk (recordOfBytes record) then (setProfile t ⟨index.toNat, h⟩ (recordOfBytes record), .done)
    else (t, .badValue)
  else (t, .badIndex)

/-- R29: READ PROFILE. -/
def tableReadProfile (t : TableStore) (index : Byte) : ReplyCode × List Byte :=
  if h : index.toNat < 16 then
    let slot := t.profiles[index.toNat]
    (.done, BitVec.ofNat 8 slot.valid.toNat :: recordBytes slot.record)
  else (.badIndex, [])

/-- R32: LOAD TONE. -/
def tableLoadTone (t : TableStore) (index : Byte) (entries : List Byte) : TableStore × ReplyCode :=
  if h : index.toNat < 4 then
    if 0 < t.inUse[index.toNat] then (t, .inUse) else (setTone t ⟨index.toNat, h⟩ entries, .done)
  else (t, .badIndex)

/-- R33: READ TONE. -/
def tableReadTone (t : TableStore) (index : Byte) : ReplyCode × List Byte :=
  if h : index.toNat < 4 then
    (.done, t.tones[index.toNat].toList ++ [BitVec.ofNat 8 t.inUse[index.toNat]])
  else (.badIndex, [])

/-- R35: LOAD TIMEBASE. -/
def tableLoadTimebase (t : TableStore) (code divisor : Nat) : TableStore × ReplyCode :=
  if code ≤ 31 ∧ divisor ≠ 0 then (setTimebase t code divisor, .done) else (t, .badValue)

end Sys2Proof.Machine
end

