-- ==== Sys2Proof/Machine/Requests.lean ====
section
/-! DEFINITION. Chapter 10: the Request Unit's checks and the execution of each request kind, in the event in which the
request's unit ends. -/

namespace Sys2Proof.Machine

/-- R150: the nine request kinds. -/
inductive RequestKind where
  | loadProfile | readProfile | loadTone | readTone | loadTimebase | readStatus | abortLane | restartPart | reloadBoot
  deriving DecidableEq, Repr

/-- R168: the request kind of a value; none outside 1 to 9. -/
def requestKindOf (v : Byte) : Option RequestKind :=
  match v.toNat with
  | 1 => some .loadProfile
  | 2 => some .readProfile
  | 3 => some .loadTone
  | 4 => some .readTone
  | 5 => some .loadTimebase
  | 6 => some .readStatus
  | 7 => some .abortLane
  | 8 => some .restartPart
  | 9 => some .reloadBoot
  | _ => none

/-- R150: the L of each request kind. -/
def requestLength : RequestKind → Nat
  | .loadProfile => 39
  | .readProfile => 3
  | .loadTone => 259
  | .readTone => 3
  | .loadTimebase => 5
  | .readStatus => 2
  | .abortLane => 3
  | .restartPart => 2
  | .reloadBoot => 2

/-- R151: the request tag as received, 0 if missing. -/
def requestTag (q : RequestInProgress) : Byte := (symValues q.data).getD 0 0

/-- R151: the request kind as received, 0 if missing. -/
def requestKindByte (q : RequestInProgress) : Byte := (symValues q.data).getD 1 0

/-- R168: the operand bytes. -/
def requestOperands (q : RequestInProgress) : List Byte := symValues (q.data.drop 2)

/-- R150, checks 1 to 5, in order: the kind of a request that passes them, or the code of the first that fails. The unit
was truncated if fewer than L data symbols were received. -/
def requestCheck (q : RequestInProgress) : Except ReplyCode RequestKind :=
  if q.received < 2 then .error .badLength
  else if (q.data.take 2).any parityError then .error .badParity
  else
    match requestKindOf (requestKindByte q) with
    | none => .error .badKind
    | some kind =>
      if q.length ≠ requestLength kind ∨ q.received ≠ q.length then .error .badLength
      else if (q.data.drop 2).any parityError then .error .badParity
      else .ok kind

/-- R151: the request answered. -/
def State.reply (q : RequestInProgress) (code : ReplyCode) (body : List Byte) (s : State) : State :=
  s.answer (requestTag q) (requestKindByte q) code body

/-! ## The status report (R154, R171) -/

/-- R154: a lane's nine bytes of the report. -/
def laneReport (l : Lane) : List Byte :=
  [laneStateByte l.state] ++ beBytes 4 l.header.item.toNat ++ beBytes 2 l.lineCount ++ beBytes 2 (storeFree l)

/-- R154: the 74-byte report. -/
def State.statusReport (s : State) : List Byte :=
  [s.partAddress.setWidth 8, resetCauseByte s.req.lastReset] ++ beBytes 1 s.tables.prescale ++ beBytes 2 s.tables.divisor
    ++ s.lanes.toList.flatMap laneReport ++ beBytes 4 s.pool ++ beBytes 2 s.transit.length
    ++ beBytes 2 s.req.stray ++ beBytes 2 s.req.tagParity ++ beBytes 2 s.req.extraData ++ beBytes 2 s.req.rxOverrun
    ++ beBytes 2 s.req.txOverrun ++ s.req.itemsCompleted.toList.flatMap (beBytes 4)
    ++ beBytes 1 (eventFlagBits s.req.events)

/-! ## The request kinds -/

/-- R26, R27. -/
def State.doLoadProfile (q : RequestInProgress) (s : State) : State :=
  let ops := requestOperands q
  let (t, code) := tableLoadProfile s.tables (ops.getD 0 0) (ops.drop 1)
  (s.withTables t).reply q code []

/-- R29. -/
def State.doReadProfile (q : RequestInProgress) (s : State) : State :=
  let (code, body) := tableReadProfile s.tables ((requestOperands q).getD 0 0)
  s.reply q code body

/-- R32. -/
def State.doLoadTone (q : RequestInProgress) (s : State) : State :=
  let ops := requestOperands q
  let (t, code) := tableLoadTone s.tables (ops.getD 0 0) (ops.drop 1)
  (s.withTables t).reply q code []

/-- R33. -/
def State.doReadTone (q : RequestInProgress) (s : State) : State :=
  let (code, body) := tableReadTone s.tables ((requestOperands q).getD 0 0)
  s.reply q code body

/-- R35, R166: an accepted load restarts the counts of the Time Base. -/
def State.doLoadTimebase (q : RequestInProgress) (s : State) : State :=
  let ops := requestOperands q
  let (t, code) := tableLoadTimebase s.tables (ops.getD 0 0).toNat (fieldAt ops 1 2)
  let s := s.withTables t
  (if code = .done then s.withTime {} else s).reply q code []

/-- R154: the report, and every flag it shows as set cleared. -/
def State.doReadStatus (q : RequestInProgress) (s : State) : State :=
  let report := s.statusReport
  (s.withReq { s.req with events := {} }).reply q .done report

/-- R21, R155. -/
def State.doAbortLane (q : RequestInProgress) (s : State) : State :=
  let lane := ((requestOperands q).getD 0 0).toNat
  if h : lane < 4 then (s.abort ⟨lane, h⟩).reply q .done [] else s.reply q .badIndex []

/-- R157: whether every lane is IDLE. -/
def State.allIdle (s : State) : Bool := s.lanes.toList.all fun l => l.state == .idle

/-- R157, R161: the Boot Loader started for a RELOAD BOOT: a check pass from the first byte. -/
def bootReload : BootLoader := { phase := .check, purpose := some .reload }

/-- R157: a boot load is started and the reply stays owed, or the request is refused with BUSY. -/
def State.doReloadBoot (q : RequestInProgress) (s : State) : State :=
  if s.allIdle then
    ((s.withReq { s.req with bootRunning := some (requestTag q) }).withBoot bootReload).putBus busAddressing
  else s.reply q .busy []

/-- R38, R156: the Table Store at a RESTART PART: everything kept but the in-use counts. -/
def tablesRestart (t : TableStore) : TableStore := { t with inUse := Vector.replicate 4 0 }

/-- R129 step 2: the unit in progress settled: an own SEG CLOSE or a FILL is finished, any other unit is cut. -/
def settleCurrent : Option Emitting → Option Emitting
  | some { what := .segClose _ syms, sent } => some { what := .segClose false syms, sent := sent }
  | some { what := .abandoned syms, sent } => some { what := .abandoned syms, sent := sent }
  | some { what := .fill syms, sent } => some { what := .fill syms, sent := sent }
  | _ => none

/-- R119, R129, R132: ETX at a RESTART PART with the given tag. Unwinding holds while the stack holds an entry: the end
of a SEG CLOSE that is being finished pops its own entry, and abandoned closes follow for the others. -/
def etxRestart (e : Etx) (tag : Byte) : Etx :=
  { stack := e.stack
    unwinding := e.stack != []
    started := some (.request, tag)
    current := settleCurrent e.current
    inFlight := e.inFlight && (settleCurrent e.current).isSome }

/-- R156: RESTART PART with the given tag; a stop condition ends a transaction in progress on the two-wire bus (R164). -/
def State.restart (tag : Byte) (s : State) : State :=
  { s with
    lrx := {}
    transit := []
    lanes := Vector.replicate 4 {}
    pool := poolBytes
    replies := []
    etx := etxRestart s.etx tag
    tables := tablesRestart s.tables
    req := { lastReset := .request }
    boot := {}
    bus := if s.boot.phase = .idle then s.bus else .stop :: s.bus
    time := {} }

/-- R129, R142, R156: a RESTART PART that passes its checks. A broadcast one's copy is written into the emptied Transit
FIFO. -/
def State.doRestartPart (q : RequestInProgress) (s : State) : State :=
  (s.restart (requestTag q)).writeCopySymbols s.lrx.copy s.lrx.copyCut

/-- R142, R149, R150: the request executed. A broadcast request's copy is written as its execution begins (log 19). -/
def State.execute (q : RequestInProgress) (s : State) : State :=
  match requestCheck q with
  | .error code => s.writeCopy.reply q code []
  | .ok .loadProfile => s.writeCopy.doLoadProfile q
  | .ok .readProfile => s.writeCopy.doReadProfile q
  | .ok .loadTone => s.writeCopy.doLoadTone q
  | .ok .readTone => s.writeCopy.doReadTone q
  | .ok .loadTimebase => s.writeCopy.doLoadTimebase q
  | .ok .readStatus => s.writeCopy.doReadStatus q
  | .ok .abortLane => s.writeCopy.doAbortLane q
  | .ok .reloadBoot => s.writeCopy.doReloadBoot q
  | .ok .restartPart => s.doRestartPart q

/-! ## Taking a request (R149) -/

/-- R149: whether the Request Unit refuses a request presented with the given data symbols. -/
def State.refusesRequest (data : List Symbol) (s : State) : Bool :=
  decide (replyPlaces ≤ s.replies.length + s.req.owed)
    || (s.req.bootRunning.isSome && (data[1]?.any fun sym => !parityError sym && symValue sym == kindReloadBoot))

/-- R149: a request taken with the data symbols that have arrived. -/
def State.takeRequest (length : Nat) (data : List Symbol) (s : State) : State :=
  s.withReq
    { s.req with
      inProgress := some { length := length, data := data, received := data.length }
      owed := s.req.owed + 1 }

/-- R149: a further data symbol of the request in progress; at most 259 are recorded. -/
def recordSymbol (q : RequestInProgress) (sym : Symbol) : RequestInProgress :=
  { q with
    data := if q.data.length < requestSymbols then q.data ++ [sym] else q.data
    received := q.received + 1 }

/-- R149: a further data symbol reaches the Request Unit. -/
def State.requestData (sym : Symbol) (s : State) : State :=
  match s.req.inProgress with
  | none => s
  | some q => s.withReq { s.req with inProgress := some (recordSymbol q sym) }

/-- R149: the unit of the request in progress ends, and the request is executed. -/
def State.requestEnd (s : State) : State :=
  match s.req.inProgress with
  | none => s
  | some q => (s.withReq { s.req with inProgress := none }).execute q

end Sys2Proof.Machine
end

