-- ==== Sys2Proof/Machine/Link.lean ====
section
/-! DEFINITION. Chapter 9: LRX, which takes symbols from the receive FIFO, cuts them into units, and passes, holds,
forwards or drops each unit: the commands SYMBOL_ARRIVAL, PRESENT_HELD_UNIT, CLOSING_QUEUE, and the unit commands. -/

namespace Sys2Proof.Machine

/-- R138: the class of a unit, from its kind and address, for a part with the given address. -/
def classify (part : BitVec 5) (tag : Symbol) : UnitClass :=
  let kind := tagKind tag
  let addr := tagAddress tag
  if kind = kindFill then .dropped
  else if kind = kindRequest then
    if addr = broadcastAddress then .broadcast else if addr = part then .own else .transit
  else if kind = kindItemOpen ∨ kind = kindLine ∨ kind = kindItemClose then
    if addr = part ∧ part ≠ broadcastAddress then .own else .transit
  else .transit

/-- R134: the L of the current unit. -/
def unitLength (u : CurrentUnit) : Nat := lengthOf u.hi u.lo

/-- The parse state changed. -/
def State.withParse (s : State) (p : Parse) : State := s.withLrx { s.lrx with parse := p }

/-- R141: the hold slot changed. -/
def State.withHold (s : State) (h : Option Held) : State := s.withLrx { s.lrx with hold := h }

/-- R134: parsing stands after a data symbol of `u`: in the unit, or in WATCH once none remains. -/
def State.withUnit (s : State) (u : CurrentUnit) : State :=
  s.withParse (if u.remaining = 0 then .watch else .body u)

/-- R142: the request copy of a broadcast request taken with the given data symbols. -/
def State.startCopy (u : CurrentUnit) (data : List Symbol) (s : State) : State :=
  if u.cls = .broadcast then s.withLrx { s.lrx with copy := u.tag :: u.hi :: u.lo :: data, copyCut := false } else s

/-- R142: a further data symbol of a broadcast request added to its copy; beyond the 259th it cuts the copy. -/
def State.extendCopy (u : CurrentUnit) (sym : Symbol) (s : State) : State :=
  if u.cls = .broadcast then
    if s.lrx.copy.length < copySymbols then s.withLrx { s.lrx with copy := s.lrx.copy ++ [sym] }
    else s.withLrx { s.lrx with copyCut := true }
  else s

/-- R142: a broadcast request truncated on the link leaves a copy marked as truncated. -/
def State.cutCopy (u : CurrentUnit) (s : State) : State :=
  if u.cls = .broadcast then s.withLrx { s.lrx with copyCut := true } else s

/-! ## Presenting (R2, R140, R141) -/

/-- R7, R8, R12 to R14: an image unit of the given kind taken by lane `n`: what the lane does on its lane symbol. -/
def takeImage (kind : BitVec 3) (laneSym : Symbol) (l : Lane) : Lane :=
  if kind = kindItemOpen then { l with taking := .header [laneSym] }
  else if kind = kindLine then if l.state = .discard then discardLine l else beginLine l
  else { l with taking := .close [laneSym] }

/-- R2, R12, R14: an image unit that an IDLE lane takes as a stray. -/
def isStray (kind : BitVec 3) (l : Lane) : Bool := l.state == .idle && kind != kindItemOpen

/-- R141: whether lane `n` refuses an image unit of the given kind, apart from a running RELOAD BOOT. -/
def laneRefuses (kind : BitVec 3) (l : Lane) : Bool := l.state == .closing || (kind == kindItemOpen && l.state != .idle)

/-- R14: an ITEM CLOSE taken in DISCARD ends the item on its lane symbol (log 17). -/
def State.closeDiscard (n : Fin 4) (s : State) : State :=
  (s.setLane n { s.lane n with taking := .dropping }).closeLane n

/-- R2, R9, R12 to R14: lane `n` takes an image unit of the given kind, with its lane symbol. -/
def State.beginImage (kind : BitVec 3) (n : Fin 4) (laneSym : Symbol) (s : State) : State :=
  if kind = kindItemClose ∧ (s.lane n).state = .discard then s.closeDiscard n
  else s.setLane n (takeImage kind laneSym (s.lane n))

/-- R2: lane `n` takes the unit of a hold or of a first presentation; the unit goes on, or has ended. -/
def State.acceptImage (n : Fin 4) (h : Held) (laneSym : Symbol) (s : State) : State :=
  let s := ((s.withHold none).withUnit { h.unit with dest := .lane n }).beginImage (tagKind h.unit.tag) n laneSym
  if h.ended then s.laneUnitEnd n else s

/-- R7, R8: an ITEM OPEN presented to lane `n` in OPEN or DISCARD supersedes its item and is held; where the lane finds
room for its closing output at once and so enters IDLE, it is presented again in that event and taken (R2, R141). -/
def State.supersedeImage (n : Fin 4) (h : Held) (laneSym : Symbol) (s : State) : State :=
  let s := (s.withHold (some h)).supersede n
  if (s.lane n).state = .idle then s.acceptImage n h laneSym else s

/-- R2, R141: an image unit presented to lane `n`. A unit that is held leaves the parse state as it stands, WATCH (log 32). -/
def State.presentImage (n : Fin 4) (h : Held) (laneSym : Symbol) (s : State) : State :=
  let kind := tagKind h.unit.tag
  let l := s.lane n
  if kind = kindItemOpen ∧ s.req.bootRunning.isSome then s.withHold (some h)
  else if laneRefuses kind l then
    if l.state = .closing then s.withHold (some h) else s.supersedeImage n h laneSym
  else if isStray kind l then ((s.withHold none).withUnit { h.unit with dest := .drop }).countStray
  else s.acceptImage n h laneSym

/-- R141, R142, R149: a request presented to the Request Unit. One that is held leaves the parse state as it stands, WATCH
(log 32). -/
def State.presentRequest (h : Held) (s : State) : State :=
  if s.refusesRequest h.data then s.withHold (some h)
  else
    let s := (s.withHold none).withUnit { h.unit with dest := .request }
    let s := (s.startCopy h.unit h.data).takeRequest (unitLength h.unit) h.data
    if h.ended then (if h.data.length < unitLength h.unit then s.cutCopy h.unit else s).requestEnd else s

/-- R140, R141: a unit presented to its consumer. An image unit's first data symbol names lane 0 to 3 here. -/
def State.present (h : Held) (s : State) : State :=
  if tagKind h.unit.tag = kindRequest then s.presentRequest h
  else
    match h.data with
    | [] => s.withHold none
    | laneSym :: _ => s.presentImage (Fin.ofNat 4 (symValue laneSym).toNat) h laneSym

/-! ## The end of a unit (R136, R137) -/

/-- R137, R140: the unit ends, `early` or whole; the parse state is WATCH, where a request that ends here is held too
(log 32). -/
def State.finishUnit (u : CurrentUnit) (early : Bool) (s : State) : State :=
  let s := s.withParse .watch
  match u.dest with
  | .drop => s
  | .transit written => if early && written then s.endTransit else s
  | .awaitLane => s.countStray
  | .lane n => s.laneUnitEnd n
  | .awaitKind first => s.present { unit := { u with remaining := 0 }, data := first, ended := true }
  | .request => (if early then s.cutCopy u else s).requestEnd

/-! ## Taking a symbol (R135 to R137) -/

/-- R135: a tag taken at the start of a unit: a good one begins it, a damaged one leaves LRX in WATCH. -/
def State.beginHeader (tag : Symbol) (s : State) : State :=
  if parityError tag then (s.withParse .watch).countTagParity
  else s.withParse (.header (classify s.partAddress tag) tag none)

/-- R135: a tag taken inside a header: one damaged header is counted (log 14); a good tag begins the next unit. -/
def State.tagInHeader (tag : Symbol) (s : State) : State :=
  let s := s.countTagParity
  if parityError tag then s.withParse .watch else s.withParse (.header (classify s.partAddress tag) tag none)

/-- R137, R141: a tag that ends a unit early. If the ended unit is then held, the tag waits at the head of the receive
FIFO (log 13); otherwise it is taken by R135. -/
def State.tagInUnit (u : CurrentUnit) (tag : Symbol) (s : State) : State :=
  let s := s.finishUnit u true
  if s.lrx.hold.isSome then s.withLrx { s.lrx with fifo := tag :: s.lrx.fifo } else s.beginHeader tag

/-- R135: where a unit's data symbols go once its length is known; a transit unit's header is written, if it has room
(R144, R145). -/
def State.destOf (cls : UnitClass) (tag hi lo : Symbol) (s : State) : State × Dest :=
  match cls with
  | .dropped => (s, .drop)
  | .transit => ((s.writeHeader tag hi lo).1, .transit (s.writeHeader tag hi lo).2)
  | .broadcast => (s, .awaitKind [])
  | .own => (s, if tagKind tag = kindRequest then .awaitKind [] else .awaitLane)

/-- R135: the second length symbol taken: L is known; a unit with L = 0 ends here. -/
def State.lengthKnown (cls : UnitClass) (tag hi lo : Symbol) (s : State) : State :=
  let (s, dest) := s.destOf cls tag hi lo
  let u : CurrentUnit := { cls, tag, hi, lo, remaining := lengthOf hi lo, dest }
  if u.remaining = 0 then s.finishUnit u false else s.withParse (.body u)

/-- R135: a length symbol with a parity error is a damaged header. -/
def State.takeLength (cls : UnitClass) (tag : Symbol) (hi : Option Symbol) (sym : Symbol) (s : State) : State :=
  if parityError sym then (s.withParse .watch).countTagParity
  else
    match hi with
    | none => s.withParse (.header cls tag (some sym))
    | some h => s.lengthKnown cls tag h sym

/-- R140: an own image unit's lane symbol: a bad one, or one above 3, makes the unit a stray. `u` counts the symbol. The
parse state is WATCH, with no current unit, where the unit is then held (log 32). -/
def State.takeLaneSymbol (u : CurrentUnit) (sym : Symbol) (s : State) : State :=
  if parityError sym || decide (3 < (symValue sym).toNat) then (s.withUnit { u with dest := .drop }).countStray
  else (s.withParse .watch).present { unit := u, data := [sym], ended := decide (u.remaining = 0) }

/-- R140: a request's tag symbol or kind symbol. `u` counts the symbol. The parse state is WATCH, with no current unit,
where the unit is then held (log 32). -/
def State.takeKindSymbol (u : CurrentUnit) (first : List Symbol) (sym : Symbol) (s : State) : State :=
  let data := first ++ [sym]
  if data.length < 2 then
    if u.remaining = 0 then s.finishUnit { u with dest := .awaitKind data } false
    else s.withParse (.body { u with dest := .awaitKind data })
  else (s.withParse .watch).present { unit := u, data := data, ended := decide (u.remaining = 0) }

/-- R136: a data symbol of the unit in progress; `u` counts it. -/
def State.takeBody (u : CurrentUnit) (sym : Symbol) (s : State) : State :=
  match u.dest with
  | .drop => s.withUnit u
  | .transit written =>
    let (s, written) := s.writeData sym written
    s.withUnit { u with dest := .transit written }
  | .awaitLane => s.takeLaneSymbol u sym
  | .lane n =>
    let s := (s.withUnit u).laneData n sym
    if u.remaining = 0 then s.finishUnit u false else s
  | .awaitKind first => s.takeKindSymbol u first sym
  | .request =>
    let s := ((s.withUnit u).extendCopy u sym).requestData sym
    if u.remaining = 0 then s.finishUnit u false else s

/-- R135 to R137: LRX takes one symbol. -/
def State.takeSymbol (sym : Symbol) (s : State) : State :=
  if isTag sym then
    match s.lrx.parse with
    | .watch => s.beginHeader sym
    | .header _ _ _ => s.tagInHeader sym
    | .body u => s.tagInUnit u sym
  else
    match s.lrx.parse with
    | .watch => s.countExtraData
    | .header cls tag hi => s.takeLength cls tag hi sym
    | .body u => s.takeBody { u with remaining := u.remaining - 1 } sym

/-! ## The receive FIFO (R143) -/

/-- R143: LRX takes every symbol waiting in the receive FIFO, in order, until the FIFO is empty or LRX is no longer free;
`fuel` is the number of symbols waiting. -/
def State.drainFifo : Nat → State → State
  | 0, s => s
  | fuel + 1, s =>
    if s.lrxFree then
      match s.lrx.fifo with
      | [] => s
      | sym :: rest => State.drainFifo fuel ((s.withLrx { s.lrx with fifo := rest }).takeSymbol sym)
    else s

/-- R143: LRX takes the waiting symbols. -/
def State.drain (s : State) : State := s.drainFifo s.lrx.fifo.length

/-- R143: a symbol arrives on the upstream port. -/
def State.arrive (sym : Symbol) (s : State) : State :=
  if s.resetLine then s
  else if s.lrx.fifo.length < fifoPlaces then (s.withLrx { s.lrx with fifo := s.lrx.fifo ++ [sym] }).drain
  else s.countRxOverrun

/-- Symbols arrive one after another. -/
def State.arriveAll (syms : List Symbol) (s : State) : State := syms.foldl (fun s sym => s.arrive sym) s

/-- R141, R143: the held unit is presented again; if it is taken, parsing resumes on the waiting symbols (log 7). -/
def State.presentHeld (s : State) : State :=
  match s.lrx.hold with
  | none => s
  | some h => (s.present h).drain

/-- R2: the lane to which a held unit is presented, if it is an image unit. -/
def heldLane (h : Held) : Option (Fin 4) :=
  if tagKind h.unit.tag = kindRequest then none else h.data.head?.map fun sym => Fin.ofNat 4 (symValue sym).toNat

/-- R141: lane `n`'s state has changed: a unit held for it is presented again. -/
def State.presentLaneAgain (n : Fin 4) (s : State) : State :=
  if s.lrx.hold.bind heldLane = some n then s.presentHeld else s

/-- R118, R141: a reply place is free: a held request is presented again. -/
def State.presentRequestAgain (s : State) : State :=
  if s.lrx.hold.any fun h => tagKind h.unit.tag == kindRequest then s.presentHeld else s

/-- R19, R117: lane `n` tests its CLOSING wait; where it enters IDLE, a unit held for it is presented again. -/
def State.retestClosing (n : Fin 4) (s : State) : State :=
  if canQueue (s.lane n) then (s.endClosing n).presentLaneAgain n else s

/-- An image unit of the given kind, addressed to the part, arrives symbol by symbol (log 5). -/
def State.arriveImage (kind : BitVec 3) (u : ImageUnit) (s : State) : State :=
  s.arriveAll (imageSymbols kind s.partAddress u)

/-- A request unit of the given kind arrives symbol by symbol (log 5). -/
def State.arriveRequest (kind : Byte) (r : Request) (s : State) : State :=
  s.arriveAll (requestUnitSymbols kind s.partAddress r)

/-! ## The commands -/

/-- SYMBOL_ARRIVAL (R143). -/
def execSymbolArrival (sym : Symbol) (s : State) : Host.Outcome State Fault Refusal := .next (s.arrive sym)

/-- PRESENT_HELD_UNIT (R141, log 7). -/
def execPresentHeldUnit (s : State) : Host.Outcome State Fault Refusal := .next s.presentHeld

/-- CLOSING_QUEUE (R19, log 6). -/
def execClosingQueue (n : Fin 4) (s : State) : Host.Outcome State Fault Refusal := .next (s.retestClosing n)

/-- ITEM_OPEN (R3): the unit arrives for the part. -/
def execItemOpen (u : ImageUnit) (s : State) : Host.Outcome State Fault Refusal := .next (s.arriveImage kindItemOpen u)

/-- LINE (R9): the unit arrives for the part. -/
def execLine (u : ImageUnit) (s : State) : Host.Outcome State Fault Refusal := .next (s.arriveImage kindLine u)

/-- ITEM_CLOSE (R13): the unit arrives for the part. -/
def execItemClose (u : ImageUnit) (s : State) : Host.Outcome State Fault Refusal :=
  .next (s.arriveImage kindItemClose u)

/-- LOAD_PROFILE (R26). -/
def execLoadProfile (r : Request) (s : State) : Host.Outcome State Fault Refusal :=
  .next (s.arriveRequest kindLoadProfile r)

/-- READ_PROFILE (R29). -/
def execReadProfile (r : Request) (s : State) : Host.Outcome State Fault Refusal :=
  .next (s.arriveRequest kindReadProfile r)

/-- LOAD_TONE (R32). -/
def execLoadTone (r : Request) (s : State) : Host.Outcome State Fault Refusal := .next (s.arriveRequest kindLoadTone r)

/-- READ_TONE (R33). -/
def execReadTone (r : Request) (s : State) : Host.Outcome State Fault Refusal := .next (s.arriveRequest kindReadTone r)

/-- LOAD_TIMEBASE (R35). -/
def execLoadTimebase (r : Request) (s : State) : Host.Outcome State Fault Refusal :=
  .next (s.arriveRequest kindLoadTimebase r)

/-- READ_STATUS (R154). -/
def execReadStatus (r : Request) (s : State) : Host.Outcome State Fault Refusal :=
  .next (s.arriveRequest kindReadStatus r)

/-- ABORT_LANE (R21). -/
def execAbortLane (r : Request) (s : State) : Host.Outcome State Fault Refusal :=
  .next (s.arriveRequest kindAbortLane r)

/-- RESTART_PART (R156). -/
def execRestartPart (r : Request) (s : State) : Host.Outcome State Fault Refusal :=
  .next (s.arriveRequest kindRestartPart r)

/-- RELOAD_BOOT (R157). -/
def execReloadBoot (r : Request) (s : State) : Host.Outcome State Fault Refusal :=
  .next (s.arriveRequest kindReloadBoot r)

end Sys2Proof.Machine
end

