-- ==== Sys2Proof/Machine/Emission.lean ====
section
/-! DEFINITION. Chapter 8: ETX, its choices at a unit boundary, the symbols it sends, and DSTOP#: the commands
EMIT_UNIT_BEGIN, SYMBOL_SENT, UNIT_END, DSTOP_ASSERT and DSTOP_DEASSERT. -/

namespace Sys2Proof.Machine

/-! ## Sources and candidates -/

/-- R121: the head segment of a source. -/
def State.segmentOf (s : State) : Source → Option Segment
  | .lane n => (s.lane n).store.head?
  | .reply => s.replies.head?
  | .started cause tag => some (startedSegment cause tag s.partAddress)

/-- The body of a source's head segment. -/
def State.bodyOf (s : State) (src : Source) : List Byte := ((s.segmentOf src).map Segment.body).getD []

/-- The header bytes of a source's head segment. -/
def State.headerOfSource (s : State) (src : Source) : List Byte :=
  ((s.segmentOf src).map fun g => headerBytes g.header).getD []

/-- Whether a source is on the emission stack. -/
def onStack (e : Etx) (src : Source) : Bool := e.stack.any fun entry => entry.source == src

/-- R121: the class that lane `n` offers, if it is a candidate. -/
def State.laneOffers (s : State) (n : Fin 4) : Option Nat :=
  if onStack s.etx (.lane n) then none else (s.lane n).store.head?.map fun g => headerClass g.header

/-- R121: whether the reply queue is a candidate. -/
def State.replyOffers (s : State) : Bool := s.replies != [] && !onStack s.etx .reply

/-- R122: the lanes in the order they are tried after a pointer. -/
def tryOrder (ptr : Fin 4) : List (Fin 4) := [ptr + 1, ptr + 2, ptr + 3, ptr]

/-- R122: the first lane after a pointer that offers the class. -/
def State.pickLane (s : State) (ptr : Fin 4) (cls : Nat) : Option (Fin 4) :=
  (tryOrder ptr).find? fun n => s.laneOffers n == some cls

/-- R122: the candidate that ETX chooses among those whose class is at least `floor`: the highest class, the lanes of a
class round-robin. -/
def State.choose (s : State) (floor : Nat) : Option (Source × Nat) :=
  if s.replyOffers && decide (floor ≤ 2) then some (.reply, 2)
  else
    match (if floor ≤ 1 then s.pickLane s.etx.rr1 1 else none) with
    | some n => some (.lane n, 1)
    | none => (if floor = 0 then s.pickLane s.etx.rr0 0 else none).map fun n => (.lane n, 0)

/-- R122: the pointer of the chosen class set to the chosen lane. -/
def setPointer (e : Etx) : Source → Nat → Etx
  | .lane n, 0 => { e with rr0 := n }
  | .lane n, 1 => { e with rr1 := n }
  | _, _ => e

/-! ## Beginning a unit -/

/-- R122, R123: an entry pushed for a source and its SEG OPEN to be sent. -/
def State.pushSource (src : Source) (cls : Nat) (s : State) : State :=
  let symbols := unitSymbols kindSegOpen s.partAddress (s.headerOfSource src)
  s.withEtx
    { s.etx with
      stack := { source := src, cls := cls } :: s.etx.stack
      alternation := .own
      current := some { what := .segOpen symbols } }

/-- R120, R123: the unit at the top entry's resume point to be sent. -/
def State.continueTop (top : StackEntry) (s : State) : State :=
  let body := s.bodyOf top.source
  let what :=
    match top.resume with
    | .segOpen => Sending.segOpen (unitSymbols kindSegOpen s.partAddress (s.headerOfSource top.source))
    | .chunk n => Sending.chunk n (unitSymbols kindChunk s.partAddress (chunkData body n))
    | .segClose => Sending.segClose true (unitSymbols kindSegClose s.partAddress (segCloseData body.length 0))
  s.withEtx { s.etx with alternation := .own, current := some { what := what } }

/-- R129: the abandoned close of the top entry to be sent. -/
def State.beginAbandoned (top : StackEntry) (s : State) : State :=
  s.withEtx
    { s.etx with
      alternation := .own
      current := some { what := .abandoned (unitSymbols kindSegClose s.partAddress (segCloseData top.sent 1)) } }

/-- R125: the transit unit at the head of the Transit FIFO to be sent. -/
def State.beginTransit (hi lo : TransitSymbol) (s : State) : State :=
  s.withEtx
    { s.etx with alternation := .transit, current := some { what := .transit (lengthOf hi.sym lo.sym) } }

/-- R126: a FILL to be sent; the alternation stands. -/
def State.beginFill (s : State) : State :=
  s.withEtx { s.etx with current := some { what := .fill (unitSymbols kindFill s.partAddress []) } }

/-- R122, R123: the own unit that ETX has to begin, if any: a candidate pre-empting the top entry or beginning on an
empty stack, or the top entry continued. -/
def State.ownUnit (s : State) : Option State :=
  match s.etx.stack with
  | [] => (s.choose 0).map fun c => (s.withEtx (setPointer s.etx c.1 c.2)).pushSource c.1 c.2
  | top :: _ =>
    match s.choose (top.cls + 1) with
    | some c => some ((s.withEtx (setPointer s.etx c.1 c.2)).pushSource c.1 c.2)
    | none => some (s.continueTop top)

/-- R125: the transit unit that ETX has to begin, if its tag and both length symbols stand at the FIFO's head. -/
def State.transitUnit (s : State) : Option State :=
  match s.transit with
  | _ :: hi :: lo :: _ => some (s.beginTransit hi lo)
  | _ => none

/-- R125, R126: the choice at a boundary while neither a close nor a notice is owed. -/
def State.alternate (s : State) : State :=
  match s.ownUnit, s.transitUnit with
  | some own, some transit => if s.etx.alternation = .own then transit else own
  | some own, none => own
  | none, some transit => transit
  | none, none => s.beginFill

/-- R130: whether the entry is the STARTED notice's. -/
def isNotice (e : StackEntry) : Bool :=
  match e.source with
  | .started _ _ => true
  | _ => false

/-- R125, R129, R130: the unit chosen at a unit boundary: an owed close, the STARTED notice, its continuation, or the
choice of R125. -/
def State.beginUnit (s : State) : State :=
  match s.etx.stack, s.etx.unwinding, s.etx.started with
  | top :: _, true, _ => s.beginAbandoned top
  | [], _, some (cause, tag) => (s.withEtx { s.etx with started := none }).pushSource (.started cause tag) 2
  | top :: _, false, _ => if isNotice top then s.continueTop top else s.alternate
  | [], _, none => s.alternate

/-- R126, R127, R131: whether ETX may begin a unit now: a unit boundary, DSTOP# deasserted, no reset or start-up. -/
def State.mayBegin (s : State) : Bool := !s.resetLine && !s.startUp && !s.dstop && s.etx.current.isNone

/-! ## Sending -/

/-- The symbols of a unit that ETX originates; none of a transit unit's are its own. -/
def ownSymbols : Sending → List Symbol
  | .segOpen syms | .chunk _ syms | .segClose _ syms | .abandoned syms | .fill syms => syms
  | .transit _ => []

/-- R120: the resume point after SEG OPEN or CHUNK `n - 1`, for a body of the given length. -/
def resumeAt (bodyLength n : Nat) : Resume := if chunkBytes * n < bodyLength then .chunk n else .segClose

/-- R120: the top entry changed. -/
def changeTop (f : StackEntry → StackEntry) : List StackEntry → List StackEntry
  | [] => []
  | top :: rest => f top :: rest

/-- R117, R118: the head segment removed from a source, and what the removal makes room for in the same event: a lane
tests its CLOSING wait again (R19), a held request is presented again (R141). -/
def State.removeHead (src : Source) (s : State) : State :=
  match src with
  | .lane n => (s.setLane n { s.lane n with store := (s.lane n).store.tail }).retestClosing n
  | .reply => (s.withReplies s.replies.tail).presentRequestAgain
  | .started _ _ => s

/-- R117, R118, R120: the top entry popped, its segment removed from its source if `release`. -/
def State.popTop (release : Bool) (s : State) : State :=
  match s.etx.stack with
  | [] => s
  | top :: rest =>
    let s' := s.withEtx { s.etx with stack := rest, unwinding := s.etx.unwinding && rest != [] }
    if release then s'.removeHead top.source else s'

/-- The body length of the top entry's segment. -/
def State.topBody (s : State) : Nat :=
  match s.etx.stack with
  | [] => 0
  | top :: _ => (s.bodyOf top.source).length

/-- R120: what the end of a unit does, once its last symbol has been sent. -/
def State.endUnit (what : Sending) (s : State) : State :=
  let s := s.withEtx { s.etx with current := none, inFlight := false }
  match what with
  | .segOpen _ =>
    s.withEtx { s.etx with stack := changeTop (fun e => { e with resume := resumeAt s.topBody 0 }) s.etx.stack }
  | .chunk n _ =>
    s.withEtx { s.etx with stack := changeTop (fun e => { e with resume := resumeAt s.topBody (n + 1) }) s.etx.stack }
  | .segClose release _ => s.popTop release
  | .abandoned _ => s.popTop false
  | .fill _ | .transit _ => s

/-- R120: a chunk's data symbols, from the fourth symbol on, raise the top entry's body bytes sent. -/
def State.countBody (what : Sending) (sent : Nat) (s : State) : State :=
  match what with
  | .chunk _ _ =>
    if 3 ≤ sent then s.withEtx { s.etx with stack := changeTop (fun e => { e with sent := e.sent + 1 }) s.etx.stack }
    else s
  | _ => s

/-- One symbol leaves on the downstream port. -/
def State.sendSymbol (sym : Symbol) (s : State) : State := s.withDtx (sym :: s.dtx)

/-- R127: whether ETX may finish a symbol now: DSTOP# deasserted, or one was being sent when it asserted. -/
def State.portOpen (s : State) : Bool := !s.dstop || s.etx.inFlight

/-- R125, R144: a transit unit of `len` data symbols sends its next symbol, the head of the Transit FIFO, waiting if it
has not arrived; the unit ends at its last symbol or at an end mark. -/
def State.sendTransit (len sent : Nat) (s : State) : State :=
  match s.transit with
  | [] => s
  | t :: rest =>
    let s := ((s.withTransit rest).sendSymbol t.sym).withEtx
      { s.etx with current := some { what := .transit len, sent := sent + 1 }, inFlight := false }
    if sent + 1 = len + 3 ∨ t.endMark then s.endUnit (.transit len) else s

/-- R120, R126, R129: an own unit or a FILL sends its next symbol. -/
def State.sendOwn (what : Sending) (sent : Nat) (s : State) : State :=
  match (ownSymbols what)[sent]? with
  | none => s
  | some sym =>
    let s := ((s.sendSymbol sym).withEtx
      { s.etx with current := some { what := what, sent := sent + 1 }, inFlight := false }).countBody what sent
    if sent + 1 = (ownSymbols what).length then s.endUnit what else s

/-- The next symbol of the current unit leaves, if there is one at hand; with the last one the unit ends. -/
def State.sendNext (s : State) : State :=
  match s.etx.current with
  | none => s
  | some { what := .transit len, sent } => s.sendTransit len sent
  | some { what, sent } => s.sendOwn what sent

/-- R119, R125: EMIT_UNIT_BEGIN: a unit begins as its tag symbol is sent. -/
def State.emitUnitBegin (s : State) : State := if s.mayBegin then s.beginUnit.sendNext else s

/-- SYMBOL_SENT: ETX finishes sending a symbol of the current unit; with the last one the unit ends (log 9). -/
def State.symbolSent (s : State) : State := if s.portOpen then s.sendNext else s

/-- The symbols at hand up to the end of a transit unit that still needs `need` symbols; none if its end has not
arrived. -/
def transitLeft : Nat → List TransitSymbol → Option Nat
  | 0, _ => some 0
  | _ + 1, [] => none
  | need + 1, t :: rest => if t.endMark then some 1 else (transitLeft need rest).map (· + 1)

/-- The symbols still to be sent to the end of the current unit, if all are at hand. -/
def State.symbolsLeft (s : State) : Option Nat :=
  match s.etx.current with
  | none => none
  | some { what := .transit len, sent } => transitLeft (len + 3 - sent) s.transit
  | some { what, sent } => some ((ownSymbols what).length - sent)

/-- `k` symbols sent. -/
def State.sendSymbols : Nat → State → State
  | 0, s => s
  | k + 1, s => State.sendSymbols k s.symbolSent

/-- UNIT_END: the current unit's remaining symbols are sent, the last one ending it (log 9). It waits while a symbol is
missing, or DSTOP# holds more than one of them back. -/
def State.unitEnd (s : State) : State :=
  match s.symbolsLeft with
  | none => s
  | some k => if !s.dstop || (s.etx.inFlight && decide (k ≤ 1)) then s.sendSymbols k else s

/-! ## DSTOP# (R127) -/

/-- R127: whether a symbol is being sent: a unit is in progress, and its next symbol is at hand. -/
def State.symbolAtHand (s : State) : Bool :=
  match s.etx.current with
  | none => false
  | some { what := .transit _, .. } => s.transit != []
  | some _ => true

/-- DSTOP_ASSERT: ETX begins no further symbol; one being sent is finished. -/
def State.dstopAssert (s : State) : State :=
  if s.dstop then s else (s.withDstop true).withEtx { s.etx with inFlight := s.symbolAtHand }

/-- DSTOP_DEASSERT: ETX resumes with the next symbol, or at the unit boundary. -/
def State.dstopDeassert (s : State) : State := (s.withDstop false).withEtx { s.etx with inFlight := false }

/-! ## The commands -/

/-- EMIT_UNIT_BEGIN (R125). -/
def execEmitUnitBegin (s : State) : Host.Outcome State Fault Refusal := .next s.emitUnitBegin

/-- SYMBOL_SENT (R125). -/
def execSymbolSent (s : State) : Host.Outcome State Fault Refusal := .next s.symbolSent

/-- UNIT_END (R120). -/
def execUnitEnd (s : State) : Host.Outcome State Fault Refusal := .next s.unitEnd

/-- DSTOP_ASSERT (R127). -/
def execDstopAssert (s : State) : Host.Outcome State Fault Refusal := .next s.dstopAssert

/-- DSTOP_DEASSERT (R127). -/
def execDstopDeassert (s : State) : Host.Outcome State Fault Refusal := .next s.dstopDeassert

end Sys2Proof.Machine
end

