-- ==== Sys2Proof/Machine/Boot.lean ====
section
/-! DEFINITION. Section 11.2: the Boot Loader's two passes over the image, the end of a boot load, and the commands
BOOT_BYTE_READ and BOOT_MEMORY_NO_ANSWER. -/

namespace Sys2Proof.Machine

/-! ## The image (R162, R171) -/

/-- R171: the offset of the first tone entry. -/
def toneStart (b : BootLoader) : Nat := 7 + 37 * b.profileCount

/-- R171: the offset of the sum. -/
def sumStart (b : BootLoader) : Nat := toneStart b + 257 * b.toneCount

/-- R162 test 4, the range of the record's field whose last byte is at record offset `off`, the record's bytes up to it
being `w`; true where no field that can fail ends there (R26). -/
def recordFieldOk (off : Nat) (w : List Byte) : Bool :=
  let v := w.getD off 0
  match off with
  | 0 | 5 | 10 | 11 => v.toNat ≤ 1
  | 1 | 12 => spanOk v
  | 2 | 13 => v.toNat ≤ 63
  | 3 | 14 => v.toNat ≤ 14
  | 4 | 16 => v.toNat ≤ 3
  | 15 => v == 4 || v == 8
  | 22 => fieldAt w 21 2 ≤ 1000
  | 24 => fieldAt w 23 2 ≤ 1000
  | _ => true

/-- R162 test 4: the test of a profile entry's byte at offset `off` of the entry (0 is the index), `w` being the record's
bytes up to and with it: the field it ends, and with the record's last byte its consistency. -/
def profileByteOk (off : Nat) (v : Byte) (w : List Byte) : Bool :=
  if off = 0 then v.toNat ≤ 15
  else recordFieldOk (off - 1) w && (off != 36 || recordConsistent (recordOfBytes w))

/-- What one image byte does to a pass (R162, R163). -/
inductive BootStep where
  /-- A test failed. -/
  | bad
  /-- The byte is taken; the pass goes on. -/
  | more (b : BootLoader)
  /-- The last byte is taken and every test has passed. -/
  | passed (b : BootLoader)
  deriving DecidableEq, Repr

/-- The byte taken: the position advances, and a byte before the sum is added to the running sum. -/
def bootAdvance (b : BootLoader) (v : Byte) : BootLoader :=
  { b with position := b.position + 1, sum := b.sum + v.setWidth 16 }

/-- R162 tests 1 to 3: the image's seven header bytes. -/
def bootHeaderByte (b : BootLoader) (v : Byte) : BootStep :=
  let next := bootAdvance b v
  match b.position with
  | 0 => if v = bootMark.1 then .more next else .bad
  | 1 => if v = bootMark.2 then .more next else .bad
  | 2 => if v.toNat ≤ 16 then .more { next with profileCount := v.toNat } else .bad
  | 3 => if v.toNat ≤ 4 then .more { next with toneCount := v.toNat } else .bad
  | 4 =>
    if v.toNat ≤ 31 then .more { next with staging := { b.staging with prescale := v.toNat } } else .bad
  | 5 => .more { next with window := [v] }
  | _ =>
    let divisor := beValue (b.window ++ [v])
    if divisor ≠ 0 then .more { next with window := [], staging := { b.staging with divisor := divisor } } else .bad

/-- R162 test 4: a byte of a profile entry; `window` holds the entry's bytes so far, its index first. -/
def bootProfileByte (b : BootLoader) (v : Byte) : BootStep :=
  let entry := b.window ++ [v]
  let off := b.window.length
  if profileByteOk off v (entry.drop 1) then
    if off = 36 then
      .more
        { bootAdvance b v with
          window := []
          staging :=
            { b.staging with
              profiles := b.staging.profiles ++
                [(Fin.ofNat 16 (entry.getD 0 0).toNat, recordOfBytes (entry.drop 1))] } }
    else .more { bootAdvance b v with window := entry }
  else .bad

/-- R162 test 5: a byte of a tone entry; `window` holds the entry's bytes so far, its index first. -/
def bootToneByte (b : BootLoader) (v : Byte) : BootStep :=
  let entry := b.window ++ [v]
  let off := b.window.length
  if off = 0 ∧ 3 < v.toNat then .bad
  else if off = 256 then
    .more
      { bootAdvance b v with
        window := []
        staging :=
          { b.staging with tones := b.staging.tones ++ [(Fin.ofNat 4 (entry.getD 0 0).toNat, entry.drop 1)] } }
  else .more { bootAdvance b v with window := entry }

/-- R162 test 6: a byte of the sum, compared with the running sum of every byte before it once both have been taken. -/
def bootSumByte (b : BootLoader) (v : Byte) : BootStep :=
  let next := { b with position := b.position + 1, window := b.window ++ [v] }
  if b.position = sumStart b then .more next
  else if beValue (b.window ++ [v]) = b.sum.toNat then .passed { next with window := [] }
  else .bad

/-- R162, R163: one image byte taken in a pass. In the check pass the staging buffer stays empty (`keepStaging`). -/
def bootByte (b : BootLoader) (v : Byte) : BootStep :=
  if b.position < 7 then bootHeaderByte b v
  else if b.position < toneStart b then bootProfileByte b v
  else if b.position < sumStart b then bootToneByte b v
  else bootSumByte b v

/-- R162: the check pass keeps nothing but its position, counts and running sum; the staging buffer fills in APPLY. -/
def keepStaging (old new : BootLoader) : BootLoader :=
  if old.phase = .apply then new else { new with staging := old.staging }

/-- R162: the apply pass begun, with a new transaction from word address 0. -/
def applyPass (b : BootLoader) : BootLoader := { phase := .apply, purpose := b.purpose }

/-! ## The end of a boot load (R157, R160, R164) -/

/-- R160: the start-up sequence ends: STARTED becomes pending with the reset's cause and tag 0, and LRX takes its
backlog. -/
def State.endStartUp (s : State) : State :=
  ((s.withStartUp false).withEtx { s.etx with started := some (s.req.lastReset, 0) }).drain

/-- R157: a RELOAD BOOT ends: its reply is queued, boot load running becomes no, and a held unit is presented again
(R141). -/
def State.endReload (code : ReplyCode) (s : State) : State :=
  match s.req.bootRunning with
  | none => s
  | some tag => ((s.withReq { s.req with bootRunning := none }).answer tag kindReloadBoot code []).presentHeld

/-- R164: the boot load ends with the given outcome; the Boot Loader is idle. -/
def State.endBootLoad (code : ReplyCode) (s : State) : State :=
  let purpose := s.boot.purpose
  let s := s.withBoot {}
  match purpose with
  | some .startUp => s.endStartUp
  | some .reload => s.endReload code
  | none => s

/-- R163, R166: the staging buffer written into the Table Store, and the Time Base's counts restarted. -/
def State.applyImage (g : Staging) (s : State) : State := (s.withTables (applyStaging s.tables g)).withTime {}

/-- R161, R162: what the Boot Loader does on the bus after an image byte: each is acknowledged but the last it wants, which
is followed by a stop, and the apply pass begins with a new transaction. -/
def busAfterByte (phase : BootPhase) : BootStep → List BusEvent
  | .more _ => [.ack]
  | .bad => [.noAck, .stop]
  | .passed _ => if phase = .check then [.noAck, .stop] ++ busAddressing else [.noAck, .stop]

/-- BOOT_BYTE_READ: an image byte is taken in the pass in progress; nothing happens while the Boot Loader is idle. -/
def State.bootByteRead (v : Byte) (s : State) : State :=
  if s.boot.phase = .idle then s
  else
    let s := s.putBus (busAfterByte s.boot.phase (bootByte s.boot v))
    match bootByte s.boot v with
    | .bad => s.endBootLoad .badImage
    | .more b => s.withBoot (keepStaging s.boot b)
    | .passed b =>
      if s.boot.phase = .check then s.withBoot (applyPass s.boot)
      else (s.applyImage b.staging).endBootLoad .done

/-- BOOT_MEMORY_NO_ANSWER: the memory does not answer at the beginning of a pass; once it has answered, no address byte
is left unacknowledged. The pass ends with a stop (R161); that the whole
addressing stands on the bus before it is the model's choice (log 29). -/
def State.bootNoAnswer (s : State) : State :=
  if s.boot.phase = .idle ∨ s.boot.position ≠ 0 then s else (s.putBus [.stop]).endBootLoad .noMemory

/-- BOOT_BYTE_READ (R162). -/
def execBootByteRead (v : Byte) (s : State) : Host.Outcome State Fault Refusal := .next (s.bootByteRead v)

/-- BOOT_MEMORY_NO_ANSWER (R161). -/
def execBootMemoryNoAnswer (s : State) : Host.Outcome State Fault Refusal := .next s.bootNoAnswer

end Sys2Proof.Machine
end

