-- ==== Sys2Proof/Machine/Resets.lean ====
section
/-! DEFINITION. Section 11.1: the resets by power-on and by RESET#, the commands POWER_ON, RESET_ASSERT and
RESET_RELEASE. -/

namespace Sys2Proof.Machine

/-- The part with every block at its power-on or RESET# values (R22, R23, R39, R53, R60, R83, R99, R115, R118, R119,
R134, R148, R161, R166). What is not the part's stands: the command queue, the level of DSTOP#, and the model's record
of the port, of the bus and of its choices (log 2, log 11, log 21). -/
def State.blocksReset (cause : ResetCause) (s : State) : State :=
  { pending := s.pending
    dstop := s.dstop
    partAddress := s.partAddress
    dtx := s.dtx
    bus := s.bus
    orderIndex := s.orderIndex
    req := { lastReset := cause } }

/-- R160, R161: the straps sampled and the start-up sequence begun with a check pass, which addresses the boot memory. -/
def State.beginStartUp (adr : BitVec 5) (s : State) : State :=
  ({ s with resetLine := false, startUp := true, partAddress := adr, boot := BootLoader.startUp } : State).putBus
    busAddressing

/-- POWER_ON: every block at its defaults, the straps sampled, the start-up sequence begun. R164 does not say what it does to
a transaction in progress on the two wires: that it records nothing of its end, and the new pass's addressing comes next, is
the model's choice (log 34). -/
def State.powerOn (adr : BitVec 5) (s : State) : State := (s.blocksReset .powerOn).beginStartUp adr

/-- RESET_ASSERT: everything in progress ends, every block takes its reset values, and the part is held in reset; the
part address stands until the release (log 28). A boot load in progress leaves the wires released (R164). -/
def State.resetAssert (s : State) : State :=
  let t : State := { s.blocksReset .resetLine with resetLine := true }
  if s.boot.phase = .idle then t else t.putBus [.released]

/-- RESET_RELEASE: the straps sampled and a new start-up sequence begun, if RESET# was asserted (log 22). -/
def State.resetRelease (adr : BitVec 5) (s : State) : State := if s.resetLine then s.beginStartUp adr else s

/-- POWER_ON (R159). -/
def execPowerOn (adr : BitVec 5) (s : State) : Host.Outcome State Fault Refusal := .next (s.powerOn adr)

/-- RESET_ASSERT (R131). -/
def execResetAssert (s : State) : Host.Outcome State Fault Refusal := .next s.resetAssert

/-- RESET_RELEASE (R159). -/
def execResetRelease (adr : BitVec 5) (s : State) : Host.Outcome State Fault Refusal := .next (s.resetRelease adr)

end Sys2Proof.Machine
end

