-- ==== Sys2Proof/Machine/Time.lean ====
section
/-! DEFINITION. The Time Base (R165, R166) and the stall timers (R15, R16): the commands PRESCALER_PULSE, TICK and
STALL_EXPIRY, and the reference clock. -/

namespace Sys2Proof.Machine

/-- R165: the reference cycles from one pulse to the next, for the prescale code `c` (1 to 31): (c + 1) / 2, taken
longer and shorter in turn where it is a half step. -/
def pulseInterval (c : Nat) (phase : Bool) : Nat := if c % 2 = 1 ∨ phase then (c + 1) / 2 else c / 2 + 1

/-- R165: the half-step phase after `k` pulses: it turns at each pulse of a half-step interval. -/
def phaseAfter (c k : Nat) (phase : Bool) : Bool := if c % 2 = 0 ∧ k % 2 = 1 then !phase else phase

/-- R15: whether a tick changes the stall timers: USTOP# deasserted. -/
def State.ticksCount (s : State) : Bool := !s.ustop

/-- R15, R16: a tick that counts reaches lane `n`'s stall timer; the count that reaches the limit is the expiry. -/
def State.tickLane (n : Fin 4) (s : State) : State :=
  let l := s.lane n
  if timerRuns l then
    let s' := s.setLane n { l with stallTimer := min (l.stallTimer + 1) (stallLimitOf l) }
    if stallLimitOf l ≤ l.stallTimer + 1 then s'.expire n else s'
  else s

/-- R15, R165: a tick reaches every lane's stall timer in one event; USTOP# is read once, as it stands. -/
def State.tickLanes (s : State) : State :=
  if s.ticksCount then (((s.tickLane 0).tickLane 1).tickLane 2).tickLane 3 else s

/-- R165: a pulse raises the pulse count; the one that brings it to the divisor is a tick, and the count returns to 0.
No pulse comes with prescale code 0. -/
def State.pulse (s : State) : State :=
  let c := s.tables.prescale
  if c = 0 then s
  else
    let t : TimeBase := { cycles := 0, phase := phaseAfter c 1 s.time.phase, pulses := s.time.pulses + 1 }
    if s.tables.divisor ≤ t.pulses then (s.withTime { t with pulses := 0 }).tickLanes else s.withTime t

/-- R165: the tick: the pulses still missing to the divisor have come, and the tick reaches the lanes (log 8). No tick
comes with prescale code 0. -/
def State.tick (s : State) : State :=
  let c := s.tables.prescale
  if c = 0 then s
  else
    (s.withTime
      { cycles := 0
        phase := phaseAfter c (s.tables.divisor - s.time.pulses) s.time.phase
        pulses := 0 }).tickLanes

/-- R165: one cycle of the reference clock: the cycle count rises, and the cycle that fills the interval is a pulse
(log 4). Nothing counts while RESET# is asserted or with prescale code 0. -/
def State.refCycle (s : State) : State :=
  if s.resetLine || s.tables.prescale == 0 then s
  else if pulseInterval s.tables.prescale s.time.phase ≤ s.time.cycles + 1 then s.pulse
  else s.withTime { s.time with cycles := s.time.cycles + 1 }

/-- R15, R16: whether lane `n`'s stall timer can reach its limit now: it runs, ticks come, and USTOP# does not keep
them from counting. -/
def State.expiryCanCome (n : Fin 4) (s : State) : Bool :=
  timerRuns (s.lane n) && s.tables.prescale != 0 && s.ticksCount

/-- R16: lane `n`'s stall timer stands at its limit and expires (log 8). -/
def State.stallExpiry (n : Fin 4) (s : State) : State :=
  if s.expiryCanCome n then
    (s.setLane n { s.lane n with stallTimer := stallLimitOf (s.lane n) }).expire n
  else s

/-- PRESCALER_PULSE (R165). -/
def execPrescalerPulse (s : State) : Host.Outcome State Fault Refusal := .next s.pulse

/-- TICK (R165). -/
def execTick (s : State) : Host.Outcome State Fault Refusal := .next s.tick

/-- STALL_EXPIRY (R16). -/
def execStallExpiry (n : Fin 4) (s : State) : Host.Outcome State Fault Refusal := .next (s.stallExpiry n)

end Sys2Proof.Machine
end

