-- ==== Sys2Proof/Machine/Dispatch.lean ====
section
/-! DEFINITION. The dispatch of commands to their meanings. -/

namespace Sys2Proof.Machine

def exec (i : Instr) (s : State) : Host.Outcome State Fault Refusal :=
  match i with
  | .powerOn adr => Sys2Proof.Machine.execPowerOn adr s
  | .resetAssert => Sys2Proof.Machine.execResetAssert s
  | .resetRelease adr => Sys2Proof.Machine.execResetRelease adr s
  | .symbolArrival sym => Sys2Proof.Machine.execSymbolArrival sym s
  | .itemOpen u => Sys2Proof.Machine.execItemOpen u s
  | .line u => Sys2Proof.Machine.execLine u s
  | .itemClose u => Sys2Proof.Machine.execItemClose u s
  | .stallExpiry lane => Sys2Proof.Machine.execStallExpiry lane s
  | .closingQueue lane => Sys2Proof.Machine.execClosingQueue lane s
  | .presentHeldUnit => Sys2Proof.Machine.execPresentHeldUnit s
  | .loadProfile r => Sys2Proof.Machine.execLoadProfile r s
  | .readProfile r => Sys2Proof.Machine.execReadProfile r s
  | .loadTone r => Sys2Proof.Machine.execLoadTone r s
  | .readTone r => Sys2Proof.Machine.execReadTone r s
  | .loadTimebase r => Sys2Proof.Machine.execLoadTimebase r s
  | .readStatus r => Sys2Proof.Machine.execReadStatus r s
  | .abortLane r => Sys2Proof.Machine.execAbortLane r s
  | .restartPart r => Sys2Proof.Machine.execRestartPart r s
  | .reloadBoot r => Sys2Proof.Machine.execReloadBoot r s
  | .dstopAssert => Sys2Proof.Machine.execDstopAssert s
  | .dstopDeassert => Sys2Proof.Machine.execDstopDeassert s
  | .prescalerPulse => Sys2Proof.Machine.execPrescalerPulse s
  | .tick => Sys2Proof.Machine.execTick s
  | .emitUnitBegin => Sys2Proof.Machine.execEmitUnitBegin s
  | .unitEnd => Sys2Proof.Machine.execUnitEnd s
  | .bootMemoryNoAnswer => Sys2Proof.Machine.execBootMemoryNoAnswer s
  | .bootByteRead b => Sys2Proof.Machine.execBootByteRead b s
  | .symbolSent => Sys2Proof.Machine.execSymbolSent s

end Sys2Proof.Machine
end

