-- ==== Sys2Proof/Machine/Step.lean ====
section
/-! DEFINITION. One step: the command at the front of the queue, or, while none waits, one cycle of the reference
clock. -/

namespace Sys2Proof.Machine

/-- One step. On an empty queue no command comes: the reference clock counts one cycle, which leaves the state as it is
while the prescale code is 0 or RESET# is asserted (log 4). -/
def step (s : State) : Host.Outcome State Fault Refusal :=
  match s.pending with
  | [] => .next s.refCycle
  | c :: rest => exec c (s.withPending rest)

/-- The state with the command that a table word spells put at the front of the queue; unchanged where it spells none,
which is always: the table gives no row any bits. -/
def State.withFetchWord (s : State) (nbits w : Nat) : State :=
  match decodeTableWord nbits w with
  | none => s
  | some c => s.withPending (c :: s.pending)

end Sys2Proof.Machine
end

