-- ==== Sys2Proof/Safety.lean ====
section
/-! DEFINITION. What the statements about the part speak of: LRX between units, a whole unit, a request that meets no
refusal, and the properties of a state that every step keeps. -/

namespace Sys2Proof.Machine

/-! ## The link between two units -/

/-- LRX is in WATCH with nothing held, nothing waiting in the receive FIFO and no request copy, and it is free to take
(R143): neither RESET# nor the start-up sequence holds it. -/
def State.linkIdle (s : State) : Prop := s.lrx = {} ∧ s.resetLine = false ∧ s.startUp = false

/-- An image unit whose L data symbols all arrive (R136). -/
def wholeImage (u : ImageUnit) : Prop := u.data.length = u.length.toNat

/-- A request unit whose L data symbols all arrive (R136). -/
def wholeRequest (r : Request) : Prop := r.operands.length + 2 = r.length.toNat

/-- The data symbols of a request unit, the request tag first (R168). -/
def requestSyms (kind : Byte) (r : Request) : List Symbol := (requestData kind r).map dataByteSymbol

/-- R138: whether a request unit is a broadcast one: addressed to 31, which for a part with straps 31 every request to
the part is. -/
def State.broadcasts (s : State) (r : Request) : Bool := r.broadcast || s.partAddress == broadcastAddress

/-- R149: the request that the Request Unit has recorded when the whole unit has arrived. -/
def recorded (kind : Byte) (r : Request) : RequestInProgress :=
  { length := r.length.toNat, data := (requestSyms kind r).take requestSymbols, received := r.length.toNat }

/-- R135: the length symbol that gives the high byte of L. -/
def hiSymbol (l : BitVec 16) : Symbol := dataSymbol (BitVec.ofNat 8 (l.toNat / 256))

/-- R135: the length symbol that gives the low byte of L. -/
def loSymbol (l : BitVec 16) : Symbol := dataSymbol (BitVec.ofNat 8 l.toNat)

/-- R144, R145: a transit unit whose symbols are all taken in one event, written into the Transit FIFO behind what stands
there: whole if it fits, with an end mark on its last symbol if it is `cut`; up to the last free place, with an end mark
there, where a data symbol finds none; and not at all where its three header symbols find no room. The symbols that are not
written are counted. Fewer than three symbols are no unit. -/
def State.transitWritten (symbols : List Symbol) (cut : Bool) (s : State) : State :=
  let room := 4096 - s.transit.length
  let upTo := fun (k : Nat) (mark : Bool) =>
    s.withTransit (s.transit ++ (symbols.take k).mapIdx fun i sym => ⟨sym, mark && decide (i + 1 = k)⟩)
  let lost := fun (k : Nat) (t : State) =>
    t.withReq
      { t.req with
        txOverrun := min 65535 (t.req.txOverrun + k)
        events := { t.req.events with transitOverrun := true } }
  if symbols.length < 3 then s
  else if symbols.length ≤ room then upTo symbols.length cut
  else if 3 ≤ room then lost (symbols.length - room) (upTo room true)
  else lost symbols.length s

/-- R142: the state after a request's copy, if it is a broadcast one, is written into the Transit FIFO: its tag, both length
symbols and its data symbols as they arrived, 262 symbols at most, cut if the request has more. -/
def State.forwarded (kind : Byte) (r : Request) (s : State) : State :=
  let data := (r.tag :: ⟨kind, r.kindBad⟩ :: r.operands).map dataByteSymbol
  let symbols := tagSymbol 3 31 :: hiSymbol r.length :: loSymbol r.length :: data
  if s.broadcasts r then s.transitWritten (symbols.take 262) (decide (262 < r.length.toNat + 3)) else s

/-- Nothing keeps the Request Unit from taking a request of the given kind value (R149): LRX is between units, no
request is in progress, a reply place is free, and the kind is not RELOAD BOOT while one runs. -/
def State.takesRequest (kind : Byte) (r : Request) (s : State) : Prop :=
  s.linkIdle ∧ s.req.inProgress = none ∧ s.replies.length + s.req.owed < replyPlaces
    ∧ ¬(s.req.bootRunning.isSome ∧ kind = kindReloadBoot ∧ r.kindBad = false)

/-- R151: a reply to the request `r` joins the reply queue. -/
def State.replied (kind : Byte) (r : Request) (code : ReplyCode) (body : List Byte) (s : State) : State :=
  s.withReplies (s.replies ++ [⟨.reply r.tag.value kind code s.partAddress, body⟩])

/-! ## Image units -/

/-- R168: the kinds of the image units. -/
def imageKind (kind : BitVec 3) : Prop := kind = kindItemOpen ∨ kind = kindLine ∨ kind = kindItemClose

/-- R2, R12, R14, R140: whether an image unit with these data symbols is a stray: it has no lane symbol, a bad one or one
above 3, or it is no ITEM OPEN and its lane is IDLE. -/
def straySyms (kind : BitVec 3) (s : State) : List DataByte → Bool
  | [] => true
  | d :: _ => d.bad || decide (3 < d.value.toNat) || isStray kind (s.lane (Fin.ofNat 4 d.value.toNat))

/-- R143: symbols that arrive while LRX is not free: the receive FIFO takes up to 64, the rest are overruns. -/
def State.backlog (syms : List Symbol) (s : State) : State :=
  (State.countRxOverrun)^[syms.length - (fifoPlaces - s.lrx.fifo.length)]
    (s.withLrx { s.lrx with fifo := s.lrx.fifo ++ syms.take (fifoPlaces - s.lrx.fifo.length) })

/-- R141: an image unit as it stands in the hold slot: its lane symbol taken, `more` data symbols to come. -/
def heldImage (kind : BitVec 3) (a : BitVec 5) (l : BitVec 16) (laneSym : Symbol) (more : Nat) : Held :=
  { unit := ⟨.own, tagSymbol kind a, hiSymbol l, loSymbol l, more, .awaitLane⟩
    data := [laneSym]
    ended := decide (more = 0) }

/-- R7, R8, R141: what a refusal does in the lane: an ITEM OPEN presented in OPEN or DISCARD supersedes the item. -/
def State.refuseImage (n : Fin 4) (s : State) : State :=
  if (s.lane n).state = .closing ∨ s.req.bootRunning.isSome then s else s.supersede n

/-- R10, R11: the values that a line's pixel symbols pass on after the value `prev`: a bad pixel repeats it. -/
def repairedFrom : Byte → List DataByte → List Byte
  | _, [] => []
  | prev, d :: ds => (if d.bad then prev else d.value) :: repairedFrom (if d.bad then prev else d.value) ds

/-- R10, R11: the `wIn` values that the lane passes to its channels for a line with these pixels: the first `wIn`,
repaired, and 255 for each missing one. -/
def passedValues (wIn : Nat) (pixels : List DataByte) : List Byte :=
  repairedFrom 255 (pixels.take wIn) ++ List.replicate (wIn - pixels.length) 255

/-- R2, R141: a unit is held for lane `n`. -/
def State.holdsFor (n : Fin 4) (s : State) : Prop :=
  ∃ h ∈ s.lrx.hold, tagKind h.unit.tag ≠ 3 ∧ ∃ sym ∈ h.data.head?, Fin.ofNat 4 (symValue sym).toNat = n

/-- R141, R149: a request is held. -/
def State.holdsRequest (s : State) : Prop := ∃ h ∈ s.lrx.hold, tagKind h.unit.tag = 3

/-- R135: a tag at the start of a unit: a good one begins it with the class of R138, a damaged one is counted. -/
def State.beginsUnit (tag : Symbol) (s : State) : State :=
  if parityError tag then
    (s.withReq
      { s.req with
        tagParity := min 65535 (s.req.tagParity + 1)
        events := { s.req.events with tagParity := true } }).withLrx { s.lrx with parse := .watch }
  else s.withLrx { s.lrx with parse := .header (classify s.partAddress tag) tag none }

/-- R141: a request as it stands in the hold slot: its tag and kind symbols taken, its operands to come. -/
def State.heldRequest (kind : Byte) (r : Request) (s : State) : Held :=
  { unit :=
      { cls := if s.broadcasts r then .broadcast else .own
        tag := tagSymbol 3 (if r.broadcast then 31 else s.partAddress)
        hi := hiSymbol r.length
        lo := loSymbol r.length
        remaining := r.operands.length
        dest := .awaitKind [dataByteSymbol r.tag] }
    data := [dataByteSymbol r.tag, dataByteSymbol ⟨kind, r.kindBad⟩]
    ended := decide (r.operands = []) }

/-- R141, R142, R149: a request that the Request Unit takes, `u` its unit and `data` its symbols so far: it is in progress, a
reply is owed, and the copy of a broadcast one is begun. -/
def State.requestTaken (u : CurrentUnit) (data : List Symbol) (s : State) : State :=
  (s.withLrx
    { s.lrx with
      hold := none
      parse := if u.remaining = 0 then .watch else .body { u with dest := .request }
      copy := if u.cls = .broadcast then u.tag :: u.hi :: u.lo :: data else s.lrx.copy
      copyCut := if u.cls = .broadcast then false else s.lrx.copyCut }).withReq
    { s.req with
      inProgress := some { length := lengthOf u.hi u.lo, data := data, received := data.length }
      owed := s.req.owed + 1 }

/-! ## What a reset leaves, value by value -/

/-- A lane after any reset: the last columns of R1, R39, R60, R66, R83, R99 and R115. -/
def laneAtReset : Lane where
  state        := .idle
  header       := { item := 0, profile := 0, side := 0, cls := 0, wIn := 0 }
  reason       := .none
  snap         := { record := none, wOutB := 0, wOutG := 0, h := 0, bActive := false, gActive := false }
  lineCount    := 0
  shortLines   := 0
  longLines    := 0
  parityPixels := 0
  flags        :=
    { superseded := false, stalled := false, aborted := false, countMismatch := false, lineCap := false
      outputLost := false, bDropped := false, bandReduced := false, shortLines := false, longLines := false
      pixelParity := false }
  stallTimer   := 0
  taking       := .none
  b            :=
    { active := false, s := 0, e := 0, v := 0, wIn := 0, wOut := 0, c := 0, x := 0, p := 1, taken := 0, sums := []
      linesMerged := 0, rowIndex := 0 }
  g            :=
    { active := false, s := 0, e := 0, v := 0, wIn := 0, wOut := 0, c := 0, x := 0, p := 1, taken := 0, sums := []
      linesMerged := 0, rowIndex := 0 }
  band         :=
    { active := false, rows := [], histogram := Vector.replicate 64 0, bandIndex := 0, firstRow := 0, tPrev := 0 }
  threshold    := none
  coder        :=
    { bContext := none, groupOpen := false, gWidth := 0, gDepth := 0, gTable := 0, group := [], groupFirstRow := 0
      prevPacked := none, finalB := none, finalG := none }
  quality      :=
    { blackCount := 0, z := 0, streak := [], bands := 0, clamped := 0, dropped := 0, composed := none }
  store        := []

/-- The Request Unit after a reset with the given cause (R148). -/
def requestUnitAtReset (cause : ResetCause) : RequestUnit where
  inProgress     := none
  owed           := 0
  bootRunning    := none
  stray          := 0
  tagParity      := 0
  extraData      := 0
  rxOverrun      := 0
  txOverrun      := 0
  itemsCompleted := Vector.replicate 4 0
  events         :=
    { tagParity := false, rxOverrun := false, transitOverrun := false, stray := false, outputLost := false }
  lastReset      := cause

/-- The blocks after power-on or RESET#: the lanes, the Band Pool (R53), LRX (R134), the Transit FIFO (R144), the reply
queue (R118), ETX until start-up ends (R119, R131), the Table Store (R23), the Request Unit (R148) and the Time Base
(R166). -/
structure BlocksAtReset (cause : ResetCause) (t : State) : Prop where
  lanes    : ∀ n, t.lane n = laneAtReset
  pool     : t.pool = 131072
  lrx      : t.lrx = { fifo := [], parse := .watch, hold := none, copy := [], copyCut := false }
  transit  : t.transit = []
  replies  : t.replies = []
  etx      : t.etx =
    { stack := [], unwinding := false, started := none, rr0 := 3, rr1 := 3, alternation := .own, current := none
      inFlight := false }
  valid    : ∀ k : Fin 16, t.tables.profiles[k].valid = false
  records  : ∀ k : Fin 16, recordBytes t.tables.profiles[k].record = List.replicate 36 0
  tones    : ∀ (k : Fin 4) (i : Fin 256), t.tables.tones[k][i] = BitVec.ofNat 8 i.val
  inUse    : ∀ k : Fin 4, t.tables.inUse[k] = 0
  setting  : t.tables.prescale = 0 ∧ t.tables.divisor = 1
  requests : t.req = requestUnitAtReset cause
  time     : t.time.cycles = 0 ∧ t.time.pulses = 0

/-- What stands over a power-on or a RESET#: the command queue, the level of DSTOP#, and the model's own record of the
port and of its free choices (log 2, log 11, log 21). The bus record goes on: each reset says what it adds. -/
def OutsideKept (s t : State) : Prop :=
  t.pending = s.pending ∧ t.dstop = s.dstop ∧ t.dtx = s.dtx ∧ t.orderIndex = s.orderIndex

/-- The Boot Loader at the start of a check pass for the given purpose (R161). -/
def checkPass (purpose : BootPurpose) : BootLoader where
  phase        := .check
  purpose      := some purpose
  position     := 0
  profileCount := 0
  toneCount    := 0
  sum          := 0
  window       := []
  staging      := { prescale := 0, divisor := 0, profiles := [], tones := [] }

/-! ## Items: what opens one, what a line does to it, how it leaves CLOSING -/

/-- R3, R168: the number in `size` data symbols from symbol `offset` on, the lane symbol being 0; 0 unless all of them
arrived. -/
def receivedField (data : List DataByte) (offset size : Nat) : Nat :=
  if offset + size ≤ data.length then beValue (((data.drop offset).take size).map DataByte.value) else 0

/-- R3: the item header that a lane records from the data symbols of an ITEM OPEN. -/
def receivedHeader (data : List DataByte) : ItemHeader where
  item    := BitVec.ofNat 32 (receivedField data 1 4)
  profile := BitVec.ofNat 8 (receivedField data 5 1)
  side    := BitVec.ofNat 8 (receivedField data 6 1)
  cls     := if receivedField data 7 1 = 0 then 0 else 1
  wIn     := BitVec.ofNat 16 (receivedField data 8 2)

/-- R3: whether the header is refused with BAD_HEADER. -/
def headerRefused (data : List DataByte) : Prop :=
  data.length < 10 ∨ (∃ d ∈ (data.take 10).drop 1, d.bad = true) ∨ receivedField data 8 2 < 16 ∨
    2048 < receivedField data 8 2 ∨ 1 < receivedField data 6 1 ∨ 15 < receivedField data 5 1

/-- R5, R100: a lane whose ITEM OPEN's header is refused. Its output store keeps its segments; its band index and T_prev
stand, unused, until it opens a B-active item (log 20). -/
def discardedLane (h : ItemHeader) (reason : Reason) (l : Lane) : Lane :=
  { laneAtReset with
    state := .discard
    header := h
    reason := reason
    band := { laneAtReset.band with bandIndex := l.band.bandIndex, tPrev := l.band.tPrev }
    store := l.store }

/-- R40: a channel set up for an item, with the width rule's W_out and c. -/
def channelFor (s e v wIn : Nat) : Channel where
  active      := true
  s           := s
  e           := e
  v           := v
  wIn         := wIn
  wOut        := (widthRule wIn s e).1
  c           := (widthRule wIn s e).2
  x           := 0
  p           := 1
  taken       := 0
  sums        := List.replicate (widthRule wIn s e).1 0
  linesMerged := 0
  rowIndex    := 0

/-- R4, R40, R54, R55, R61, R84, R100: a lane whose item opens on the record `r`, with W_outB `wB`, W_outG `wG` and the
band height `grant` granted, if any; the Band Pool is asked only if B is enabled. -/
def openedLane (h : ItemHeader) (r : Record) (wB wG : Nat) (grant : Option Nat) (l : Lane) : Lane :=
  let bOn := r.bEnable = 1
  let gOn := r.gEnable = 1
  { laneAtReset with
    state := .opened
    header := h
    snap :=
      { record := some r, wOutB := wB, wOutG := wG, h := grant.getD 0, bActive := grant.isSome, gActive := decide gOn }
    flags :=
      { laneAtReset.flags with
        bDropped := decide (bOn ∧ grant = none)
        bandReduced := grant.any fun h => decide (h < 4 * 2 ^ r.bandCode.toNat) }
    b := if grant.isSome then channelFor r.sB.toNat r.eB.toNat r.vB.toNat h.wIn.toNat else laneAtReset.b
    g := if gOn then channelFor r.sG.toNat r.eG.toNat r.vG.toNat h.wIn.toNat else laneAtReset.g
    band :=
      if grant.isSome then { laneAtReset.band with active := true, tPrev := r.tInit.toNat }
      else { laneAtReset.band with bandIndex := l.band.bandIndex, tPrev := l.band.tPrev }
    coder :=
      if gOn then
        { laneAtReset.coder with
          groupOpen := true, gWidth := wG, gDepth := r.gDepth.toNat, gTable := Fin.ofNat 4 r.toneTable.toNat }
      else laneAtReset.coder
    quality := { laneAtReset.quality with streak := if grant.isSome then List.replicate wB true else [] }
    store := l.store }

/-- R4, R31, R54: lane `n` opens an item on the record `r`: the Band Pool falls by the grant, the tone table's in-use count
rises with G, and the lane is then taking `rest`. -/
def State.itemOpened (n : Fin 4) (h : ItemHeader) (r : Record) (rest : Taking) (s : State) : State :=
  let wB := if r.bEnable = 1 then (widthRule h.wIn.toNat r.sB.toNat r.eB.toNat).1 else 0
  let wG := if r.gEnable = 1 then (widthRule h.wIn.toNat r.sG.toNat r.eG.toNat).1 else 0
  let grant := if r.bEnable = 1 then poolGrant s.pool wB (4 * 2 ^ r.bandCode.toNat) else none
  let k : Fin 4 := Fin.ofNat 4 r.toneTable.toNat
  { s with
    lanes := s.lanes.set n { openedLane h r wB wG grant (s.lane n) with taking := rest }
    pool := s.pool - grant.getD 0 * wB
    tables :=
      if r.gEnable = 1 then { s.tables with inUse := s.tables.inUse.set k (s.tables.inUse[k] + 1) } else s.tables }

/-- R10, R11: a lane after the pixel `d` of a line, below W_in, whose value before it is `prev`. -/
def pixelPassed (prev : Byte) (d : DataByte) (l : Lane) : Lane :=
  let v := if d.bad then prev else d.value
  { l with
    parityPixels := l.parityPixels + d.bad.toNat
    flags := { l.flags with pixelParity := l.flags.pixelParity || d.bad }
    b := channelTake v l.b
    g := channelTake v l.g }

/-- R9 to R11, R44: a lane after the pixels of a counted line, before the end-of-line signal. -/
def countedLine (pixels : List DataByte) (l : Lane) : Lane :=
  let wIn := l.header.wIn.toNat
  let bad := (pixels.take wIn).countP DataByte.bad
  let short := pixels.length < wIn
  let long := wIn < pixels.length
  { l with
    stallTimer := 0
    lineCount := l.lineCount + 1
    shortLines := if short then l.shortLines + 1 else l.shortLines
    longLines := if long then l.longLines + 1 else l.longLines
    parityPixels := l.parityPixels + bad
    flags :=
      { l.flags with
        shortLines := l.flags.shortLines || decide short
        longLines := l.flags.longLines || decide long
        pixelParity := l.flags.pixelParity || decide (0 < bad) }
    taking := .none
    b := (passedValues wIn pixels).foldl (fun ch v => channelTake v ch) l.b
    g := (passedValues wIn pixels).foldl (fun ch v => channelTake v ch) l.g }

/-- R94: a segment built while the item is OPEN, offered to the lane's output store: queued at its tail if its size is at
most the free space, and otherwise dropped whole, with OUTPUT_LOST and a dropped segment counted. -/
def segmentOffered (l : Lane) (g : Segment) : Lane :=
  if segSize g ≤ 32768 - (l.store.map segSize).sum then { l with store := l.store ++ [g] }
  else
    { l with
      flags := { l.flags with outputLost := true }
      quality := { l.quality with dropped := l.quality.dropped + 1 } }

/-- R45, R49: what a lane's channels complete at the end of a line: the B row, if one is completed, is taken by the band
store and the G row by the Row Coder. The lane after it, and the segments that are built, in the order in which they are
offered: that of R95, the G segment first if `groupFirst`. -/
def lineCompletes (tone : Vector Byte 256) (groupFirst : Bool) (n : Fin 4) (l : Lane) : Lane × List Segment :=
  let taken := fun (take : Nat → List Byte → Lane → Lane × Option Segment) (row : Option (Nat × List Byte)) (l : Lane) =>
    match row with
    | none => (l, none)
    | some (i, values) => take i values l
  let b := taken (takeBRow n) (channelLine l.b).2 { l with b := (channelLine l.b).1 }
  let g := taken (takeGRow tone n) (channelLine l.g).2 { b.1 with g := (channelLine l.g).1 }
  (g.1, if groupFirst then g.2.toList ++ b.2.toList else b.2.toList ++ g.2.toList)

/-- R45, R49, R94, R95: lane `n`, having passed a line's pixels and being `l`, signals the end of the line: its rows are
taken, and the segments they build are offered one after the other; one that finds no room raises OUTPUT_LOST_SEEN. The
order of two is the free choice, and its index is the model's (log 11). -/
def State.lineEnds (n : Fin 4) (l : Lane) (s : State) : State :=
  let built := lineCompletes s.tables.tones[(s.lane n).coder.gTable] (Config.groupFirst s.orderIndex) n l
  let l' := built.2.foldl segmentOffered built.1
  { s with
    lanes := s.lanes.set n l'
    req :=
      { s.req with
        events :=
          { s.req.events with
            outputLost := s.req.events.outputLost || decide (l.quality.dropped < l'.quality.dropped) } }
    orderIndex := s.orderIndex + 1 }

/-- R19, R31, R57, R153: lane `n`, in CLOSING as `c` with its result composed, tests for room: it queues its final
segments and enters IDLE, its allocation and its in-use count released and its item counted, or it waits. -/
def State.closingTested (n : Fin 4) (c : Lane) (s : State) : State :=
  let final := c.coder.finalB.toList ++ c.coder.finalG.toList ++ c.quality.composed.toList
  let tone : Fin 4 := Fin.ofNat 4 (snapRecord c.snap).toneTable.toNat
  if (final.map segSize).sum ≤ 32768 - (c.store.map segSize).sum then
    { s with
      lanes :=
        s.lanes.set n
          { c with
            state := .idle
            snap := laneAtReset.snap
            coder := { c.coder with finalB := none, finalG := none }
            quality := { c.quality with composed := none }
            store := c.store ++ final }
      pool := s.pool + (if c.snap.bActive then c.snap.h * c.snap.wOutB else 0)
      tables :=
        if c.snap.gActive then { s.tables with inUse := s.tables.inUse.set tone (s.tables.inUse[tone] - 1) } else s.tables
      req :=
        { s.req with
          itemsCompleted := s.req.itemsCompleted.set n ((s.req.itemsCompleted[n] + 1) % 4294967296) } }
  else s.setLane n c

/-- R18, R19: lane `n`, being `l` in OPEN or DISCARD, ends its item by a cause other than ABORT LANE: from OPEN with the
closing work, from DISCARD with the result record alone. -/
def State.itemEnds (n : Fin 4) (l : Lane) (s : State) : State :=
  s.closingTested n
    (if l.state = .opened then closingWork s.tables.tones[l.coder.gTable] n l
    else compose n { l with state := .closing })

/-- R10, R45: lane `n`, being `l` with `arrived` pixels of a line taken, makes the line up with white pixels and signals its
end; the lane is then taking `rest`. -/
def State.lineMadeUp (n : Fin 4) (l : Lane) (arrived : Nat) (rest : Taking) (s : State) : State :=
  let white := List.replicate (l.header.wIn.toNat - arrived) (255 : Byte)
  s.lineEnds n
    { l with
      shortLines := l.shortLines + 1
      flags := { l.flags with shortLines := true }
      taking := rest
      b := white.foldl (fun ch v => channelTake v ch) l.b
      g := white.foldl (fun ch v => channelTake v ch) l.g }

/-- R16: lane `n`, its stall timer at its limit, ends its item with STALLED; a line it is taking is made up first. -/
def State.stallEnds (n : Fin 4) (s : State) : State :=
  let ends := fun (t : State) (rest : Taking) =>
    t.itemEnds n { t.lane n with flags := { (t.lane n).flags with stalled := true }, taking := rest }
  match (s.lane n).taking with
  | .none => ends s .none
  | .line arrived _ =>
    if arrived < (s.lane n).header.wIn.toNat then ends (s.lineMadeUp n (s.lane n) arrived .dropping) .dropping
    else ends s .dropping
  | .header _ | .close _ | .dropping => ends s .dropping

/-! ## Reduction -/

/-- R45, R49, R50: the rows, with their numbers, that a channel emits for the lines given to it, its partial row last. -/
def rowsEmitted : Channel → List (List Byte) → List (Nat × List Byte)
  | ch, [] => (channelFinish ch).2.toList
  | ch, line :: rest =>
    let r := channelLine (line.foldl (fun c v => channelTake v c) ch)
    r.2.toList ++ rowsEmitted r.1 rest

/-- R42: the first input pixel of output pixel `x`: the spans before it lie end to end. -/
def spanStart (s e x : Nat) : Nat := ((List.range x).map fun y => spanOf s e (positionOf y)).sum

/-- R46: the first line of row `i` of an item, and the number of lines it spans, for the vertical parameter `v`. -/
def rowLines (v i : Nat) : Nat × Nat :=
  let k := 1 + v / 2
  if v % 2 = 0 then (k * i, k) else (i / 2 * (2 * k + 1) + i % 2 * (k + 1), k + 1 - i % 2)

/-- R44, R48: the samples of output pixel `x` of row `i`, for lines of `wIn` pixels: the pixels of its span in the lines of
its row. -/
def samplesOf (s e v wIn : Nat) (lines : List (List Byte)) (i x : Nat) : List Nat :=
  let width := if x + 1 = (widthRule wIn s e).1 then (widthRule wIn s e).2 else spanOf s e (positionOf x)
  ((lines.drop (rowLines v i).1).take (rowLines v i).2).flatMap fun line =>
    ((line.drop (spanStart s e x)).take width).map BitVec.toNat

/-- R48: the mean of some samples, an exact half rounded up. -/
def meanOf (samples : List Nat) : Byte := BitVec.ofNat 8 ((2 * samples.sum + samples.length) / (2 * samples.length))

/-! ## Requests -/

/-- R150: the request kinds' values, each with its L. -/
def requestLengths : List (Nat × Nat) := [(1, 39), (2, 3), (3, 259), (4, 3), (5, 5), (6, 2), (7, 3), (8, 2), (9, 2)]

/-- R150: the code of the first check that a request fails, given all that it recorded to its end. -/
def requestFails (q : RequestInProgress) (code : ReplyCode) : Prop :=
  let kind := ((q.data.map symValue).getD 1 0).toNat
  let headGood := 2 ≤ q.received ∧ ∀ sym ∈ q.data.take 2, parityError sym = false
  code = .badLength ∧ q.received < 2 ∨
    code = .badParity ∧ 2 ≤ q.received ∧ (∃ sym ∈ q.data.take 2, parityError sym = true) ∨
    code = .badKind ∧ headGood ∧ (kind = 0 ∨ 9 < kind) ∨
    code = .badLength ∧ headGood ∧ (∃ len, (kind, len) ∈ requestLengths ∧ (q.length ≠ len ∨ q.received ≠ q.length)) ∨
    code = .badParity ∧ headGood ∧ (kind, q.length) ∈ requestLengths ∧ q.received = q.length ∧
      ∃ sym ∈ q.data.drop 2, parityError sym = true

/-- R142, R150, R151: a request ends and is refused: LRX is in WATCH, the given copy is written into the Transit FIFO, and
the reply, with 0 for a tag or kind that did not arrive, is queued. -/
def State.requestRefused (q : RequestInProgress) (code : ReplyCode) (copy : List Symbol) (cut : Bool) (s : State) : State :=
  let values := q.data.map symValue
  let t := (s.transitWritten copy cut).withLrx { s.lrx with parse := .watch, copy := [], copyCut := false }
  (t.withReplies (s.replies ++ [⟨.reply (values.getD 0 0) (values.getD 1 0) code s.partAddress, []⟩])).withReq
    { t.req with inProgress := none, owed := t.req.owed - 1 }

/-- A request whose operand bytes are `ops`, no symbol of it in error (R150). -/
def cleanRequest (r : Request) (ops : List Byte) : Prop :=
  r.tag.bad = false ∧ r.kindBad = false ∧ r.operands = ops.map fun v => ⟨v, false⟩

/-- R26: the accepted values of every field of a record, and the order of its bounds. -/
def acceptable (r : Record) : Prop :=
  r.bEnable.toNat ≤ 1 ∧ (1 ≤ r.sB.toNat ∧ r.sB.toNat ≤ 15) ∧ r.eB.toNat ≤ 63 ∧ r.vB.toNat ≤ 14 ∧
    r.bandCode.toNat ≤ 3 ∧ r.mode.toNat ≤ 1 ∧ r.despeckle.toNat ≤ 1 ∧ r.gEnable.toNat ≤ 1 ∧
    (1 ≤ r.sG.toNat ∧ r.sG.toNat ≤ 15) ∧ r.eG.toNat ≤ 63 ∧ r.vG.toNat ≤ 14 ∧
    (r.gDepth.toNat = 4 ∨ r.gDepth.toNat = 8) ∧ r.toneTable.toNat ≤ 3 ∧ r.dMin.toNat ≤ 1000 ∧ r.dMax.toNat ≤ 1000 ∧
    (r.tMin.toNat ≤ r.tInit.toNat ∧ r.tInit.toNat ≤ r.tMax.toNat) ∧ r.lMin.toNat ≤ r.lMax.toNat ∧
    r.dMin.toNat ≤ r.dMax.toNat ∧ r.zMin.toNat ≤ r.zMax.toNat

/-! ## Emission -/

/-- R121: a source that is a candidate, with the class it offers. -/
def State.offers (s : State) : Source → Nat → Prop
  | .lane n, cls =>
    (∀ e ∈ s.etx.stack, e.source ≠ .lane n) ∧ (s.lane n).store.head?.map (fun g => headerClass g.header) = some cls
  | .reply, cls => (∀ e ∈ s.etx.stack, e.source ≠ .reply) ∧ s.replies ≠ [] ∧ cls = 2
  | .started _ _, _ => False

/-- R122, R123: the least class that a candidate needs to begin: any on an empty stack, one above the top entry's
otherwise. -/
def State.floor (s : State) : Nat :=
  match s.etx.stack with
  | [] => 0
  | top :: _ => top.cls + 1

/-- R122: the pointer of a class. -/
def State.pointer (s : State) (cls : Nat) : Fin 4 := if cls = 0 then s.etx.rr0 else s.etx.rr1

/-- A unit boundary at which ETX may begin a unit (R126, R127, R131). -/
def State.atBoundary (s : State) : Prop :=
  s.resetLine = false ∧ s.startUp = false ∧ s.dstop = false ∧ s.etx.current = none

/-- R125: neither a close nor a STARTED notice is owed or in progress. -/
def State.nothingOwed (s : State) : Prop :=
  s.etx.unwinding = false ∧ (s.etx.stack = [] → s.etx.started = none) ∧
    ∀ top ∈ s.etx.stack.head?, ∀ cause tag, top.source ≠ .started cause tag

/-- R122, R123: the unit that pushes an entry for `src`, its SEG OPEN: it begins as its tag is sent (R119). -/
def State.opens (src : Source) (cls : Nat) (header : List Byte) (s : State) : State :=
  (s.withDtx (tagSymbol kindSegOpen s.partAddress :: s.dtx)).withEtx
    { s.etx with
      stack := { source := src, cls := cls, resume := .segOpen, sent := 0 } :: s.etx.stack
      alternation := .own
      current := some { what := .segOpen (unitSymbols kindSegOpen s.partAddress header), sent := 1 }
      inFlight := false }

/-- R119, R120: the kind of the units at a resume point. -/
def unitKind : Resume → BitVec 3
  | .segOpen => kindSegOpen
  | .chunk _ => kindChunk
  | .segClose => kindSegClose

/-- R120, R123: the unit that stands at the resume point of an entry whose segment is `g`. -/
def unitAt (address : BitVec 5) (g : Segment) : Resume → Sending
  | .segOpen => .segOpen (unitSymbols kindSegOpen address (headerBytes g.header))
  | .chunk n => .chunk n (unitSymbols kindChunk address ((g.body.drop (256 * n)).take 256))
  | .segClose => .segClose true (unitSymbols kindSegClose address (beBytes 2 g.body.length ++ [0]))

/-- R119, R123: ETX continues the segment of its top entry with the unit `what`, whose tag has the given kind and is
sent. -/
def State.continues (kind : BitVec 3) (what : Sending) (s : State) : State :=
  (s.withDtx (tagSymbol kind s.partAddress :: s.dtx)).withEtx
    { s.etx with alternation := .own, current := some { what := what, sent := 1 }, inFlight := false }

/-- SYMBOL_SENT so many times, for as long as each gives a next state. -/
def sendsSymbols : Nat → State → Option State
  | 0, s => some s
  | k + 1, s =>
    match exec .symbolSent s with
    | .next t => sendsSymbols k t
    | _ => none

/-! ## Invariants -/

/-- R31, R53: the free count and the allocations add up to the pool, each tone table's in-use count is the number of
lanes whose item uses it, only a lane in OPEN or CLOSING has anything active, and a lane that takes a header is IDLE. -/
structure ResourcesBalanced (s : State) : Prop where
  pool   : s.pool + (s.lanes.toList.map fun l => if l.snap.bActive then l.snap.h * l.snap.wOutB else 0).sum = 131072
  tones  : ∀ k : Fin 4, s.tables.inUse[k] =
    s.lanes.toList.countP fun l => l.snap.gActive && Fin.ofNat 4 (snapRecord l.snap).toneTable.toNat == k
  quiet  : ∀ n, (s.lane n).state = .idle ∨ (s.lane n).state = .discard →
    (s.lane n).snap.bActive = false ∧ (s.lane n).snap.gActive = false
  header : ∀ n syms, (s.lane n).taking = .header syms → (s.lane n).state = .idle

/-- R134, R142, R143, R148: the receive FIFO holds at most 64 symbols, the hold slot at most two of its unit's data symbols,
a request that awaits its kind at most its tag symbol, the request copy at most 262 symbols and the request in progress at
most 259. -/
structure LinkBounded (s : State) : Prop where
  fifo    : s.lrx.fifo.length ≤ 64
  hold    : ∀ h ∈ s.lrx.hold, h.data.length ≤ 2
  kind    : ∀ u first, s.lrx.parse = .body u → u.dest = .awaitKind first → first.length ≤ 1
  copy    : s.lrx.copy.length ≤ 262
  request : ∀ q ∈ s.req.inProgress, q.data.length ≤ 259

/-- R1, R9, R15, R60, R62 to R64, R83, R93, R96, R115: a lane's store holds at most its bytes, its line counter and its stall
timer stay in range, only a lane in OPEN has an active band store, which holds fewer rows than the height in use (the row
that fills a band closes it), the group buffer holds at most three row codes between two events, an inactive band store and a
closed group context hold nothing, and a lane in OPEN has no final segments. -/
structure LaneBounded (l : Lane) : Prop where
  store   : (l.store.map segSize).sum ≤ 32768
  lines   : l.lineCount ≤ 4096
  timer   : l.stallTimer ≤ 255
  band    : l.band.active = true → l.state = .opened ∧ l.band.rows.length < l.snap.h
  noRows  : l.band.active = false → l.band.rows = []
  group   : l.coder.group.length ≤ 3
  noGroup : l.coder.groupOpen = false → l.coder.group = []
  finals  : l.state = .opened → l.coder.finalB = none ∧ l.coder.finalG = none

/-- R118, R144, R153, R165, and what a lane and the link hold: nothing holds more than its places or counts past its end. The
pulse count stays below the divisor, which `TablesLegal` keeps at 1 or more. -/
structure WithinBounds (s : State) : Prop where
  link    : LinkBounded s
  lanes   : ∀ n, LaneBounded (s.lane n)
  transit : s.transit.length ≤ 4096
  replies : s.replies.length + s.req.owed ≤ 8
  pulses  : s.time.pulses < max 1 s.tables.divisor
  owed    : s.req.inProgress.isSome.toNat + s.req.bootRunning.isSome.toNat ≤ s.req.owed
  errors  : s.req.stray ≤ 65535 ∧ s.req.tagParity ≤ 65535 ∧ s.req.extraData ≤ 65535 ∧ s.req.rxOverrun ≤ 65535 ∧
    s.req.txOverrun ≤ 65535
  items   : ∀ n : Fin 4, s.req.itemsCompleted[n] < 4294967296

/-- R121 to R123, R128: the entries of the emission stack rise in class towards the top, no source is on it twice, and,
but for segments that RESTART PART has abandoned, each entry's segment still stands at the head of its source with the
entry's class; and a unit in progress has sent its tag (R119). -/
structure StackNested (s : State) : Prop where
  classes  : s.etx.stack.Pairwise fun upper lower => lower.cls < upper.cls
  sources  : s.etx.stack.Pairwise fun upper lower => upper.source ≠ lower.source
  segments : s.etx.unwinding = false → ∀ e ∈ s.etx.stack,
    (s.segmentOf e.source).map (fun g => headerClass g.header) = some e.cls
  replies  : ∀ g ∈ s.replies, headerClass g.header = 2
  begun    : ∀ e ∈ s.etx.current, 1 ≤ e.sent

/-- R162, R163: what the Boot Loader has staged has passed its tests, and so have the bytes of the profile entry that an
apply pass is reading. -/
structure StagingPassed (b : BootLoader) : Prop where
  prescale : b.staging.prescale ≤ 31
  profiles : ∀ e ∈ b.staging.profiles, acceptable e.2
  divisor  : b.phase = .apply →
    (b.position = 6 → b.window.length = 1) ∧ (7 ≤ b.position → 1 ≤ b.staging.divisor ∧ b.staging.divisor ≤ 65535)
  entry    : b.phase = .apply → 7 ≤ b.position → b.position < 7 + 37 * b.profileCount →
    b.window.length ≤ 36 ∧
      ∀ off, off < b.window.length → profileByteOk off (b.window.getD off 0) ((b.window.take (off + 1)).drop 1) = true

/-- R24, R26, R35, R72 to R74: a valid profile holds a record that LOAD PROFILE accepts, and so does the snapshot of an
item; the Time Base setting is in range; and the threshold that an active band store carries lies within the clamp. -/
structure TablesLegal (s : State) : Prop where
  profiles   : ∀ k : Fin 16, s.tables.profiles[k].valid = true → acceptable s.tables.profiles[k].record
  setting    : s.tables.prescale ≤ 31 ∧ 1 ≤ s.tables.divisor ∧ s.tables.divisor ≤ 65535
  items      : ∀ n, ∀ r ∈ (s.lane n).snap.record, acceptable r
  thresholds : ∀ n, (s.lane n).band.active = true → ∀ r ∈ (s.lane n).snap.record,
    r.tMin.toNat ≤ (s.lane n).band.tPrev ∧ (s.lane n).band.tPrev ≤ r.tMax.toNat
  staged     : StagingPassed s.boot

/-! ## Bands (R62, R86, R87) -/

/-- R62: the band store with a row taken: written after the rows it holds, each value added to its bin, four grey levels
wide, and its number recorded if it is the band's first. -/
def rowTaken (st : BandStore) (rowNo : Nat) (row : List Byte) : BandStore :=
  { st with
    rows := st.rows ++ [row]
    histogram := Vector.ofFn fun i => st.histogram[i] + row.countP fun g => decide (g.toNat / 4 = i.val)
    firstRow := if st.rows = [] then rowNo else st.firstRow }

/-- R86: the row that run lengths stand for, the first run of the given colour. -/
def rowOfRuns : Bool → List Nat → List Bool
  | _, [] => []
  | colour, n :: rest => List.replicate n colour ++ rowOfRuns (!colour) rest

/-- R86: a run length of at most 2,048 pixels in groups of 7 bits, low group first. -/
def runLengthBytes (n : Nat) : List Byte :=
  if n < 128 then [BitVec.ofNat 8 n] else [BitVec.ofNat 8 (128 + n % 128), BitVec.ofNat 8 (n / 128)]

/-- R87: a row's bits packed eight to a byte, pixel 0 the most significant bit of the first, missing bits 0. -/
def packedRow (row : List Bool) : List Byte :=
  (List.range ((row.length + 7) / 8)).map fun j =>
    BitVec.ofNat 8 (((List.range 8).map fun i => (row.getD (8 * j + i) false).toNat * 2 ^ (7 - i)).sum)

/-! ## Reading a B segment's body (R85 to R87, R90) -/

/-- R86: the run length at the head of some bytes, and the bytes after it: groups of 7 bits, low group first, the high bit
set where another byte follows. -/
def readRun : List Byte → Option (Nat × List Byte)
  | [] => none
  | b :: rest =>
    if b.toNat < 128 then some (b.toNat, rest)
    else (readRun rest).map fun p => (b.toNat - 128 + 128 * p.1, p.2)

/-- R86: a row read from run lengths, from a run of the given colour on, `left` pixels still missing; `fuel` bounds the
runs. -/
def readRuns : Nat → Nat → Bool → List Byte → Option (List Bool × List Byte)
  | 0, _, _, _ => none
  | fuel + 1, left, colour, bytes =>
    match readRun bytes with
    | none => none
    | some (n, rest) =>
      if n = left then some (List.replicate n colour, rest)
      else if n < left then
        (readRuns fuel (left - n) (!colour) rest).map fun p => (List.replicate n colour ++ p.1, p.2)
      else none

/-- R87: pixel `x` of a row's packed bits. -/
def packedPixel (bytes : List Byte) (x : Nat) : Bool := (bytes.getD (x / 8) 0).getLsbD (7 - x % 8)

/-- R85 to R87: one row of `w` pixels read from the head of a body, after the row `prev`, and the bytes after it. -/
def readRow (w : Nat) (prev : Option (List Bool)) : List Byte → Option (List Bool × List Byte)
  | [] => none
  | kind :: rest =>
    if kind = 1 then some (List.replicate w false, rest)
    else if kind = 2 then prev.map fun row => (row, rest)
    else if kind = 3 then readRuns (w + 1) w false rest
    else if kind = 4 then
      let size := (w + 7) / 8
      if size ≤ rest.length then some ((List.range w).map (packedPixel rest), rest.drop size) else none
    else none

/-- R90: the rows of a B segment's body, `count` of them, each the context of the next; none unless they use up the
body. -/
def readBody (w : Nat) : Nat → Option (List Bool) → List Byte → Option (List (List Bool))
  | 0, _, bytes => if bytes = [] then some [] else none
  | count + 1, prev, bytes =>
    match readRow w prev bytes with
    | none => none
    | some (row, rest) => (readBody w count (some row) rest).map (row :: ·)

/-! ## The boot image (R171) -/

/-- R24, R26, R162 test 4: the byte `v` of a profile record, after the record's bytes `before` it, ends a field out of its
range, or, the last one, a record that is not consistent. -/
def recordByteFails (before : List Byte) (v : Byte) : Prop :=
  let off := before.length
  let word := 256 * (before.getD (off - 1) 0).toNat + v.toNat
  let r := recordOfBytes (before ++ [v])
  off ∈ [0, 5, 10, 11] ∧ 1 < v.toNat ∨ off ∈ [1, 12] ∧ (v = 0 ∨ 15 < v.toNat) ∨ off ∈ [2, 13] ∧ 63 < v.toNat ∨
    off ∈ [3, 14] ∧ 14 < v.toNat ∨ off ∈ [4, 16] ∧ 3 < v.toNat ∨ off = 15 ∧ v ≠ 4 ∧ v ≠ 8 ∨
    off ∈ [22, 24] ∧ 1000 < word ∨
    off = 35 ∧ ¬(r.tMin.toNat ≤ r.tInit.toNat ∧ r.tInit.toNat ≤ r.tMax.toNat ∧ r.lMin.toNat ≤ r.lMax.toNat ∧
      r.dMin.toNat ≤ r.dMax.toNat ∧ r.zMin.toNat ≤ r.zMax.toNat)

/-- R162: the image byte `v` fails a test of the pass `b`: the mark, the counts, the prescale code, the divisor, a profile
entry's index or record, a tone entry's index, the sum. -/
def imageByteFails (b : BootLoader) (v : Byte) : Prop :=
  let tones := 7 + 37 * b.profileCount
  let sum := tones + 257 * b.toneCount
  b.position = 0 ∧ v ≠ 67 ∨ b.position = 1 ∧ v ≠ 82 ∨ b.position = 2 ∧ 16 < v.toNat ∨
    b.position = 3 ∧ 4 < v.toNat ∨ b.position = 4 ∧ 31 < v.toNat ∨
    b.position = 6 ∧ b.window = [0] ∧ v = 0 ∨
    7 ≤ b.position ∧ b.position < tones ∧ b.window = [] ∧ 15 < v.toNat ∨
    7 ≤ b.position ∧ b.position < tones ∧ (∃ index before, b.window = index :: before ∧ recordByteFails before v) ∨
    tones ≤ b.position ∧ b.position < sum ∧ b.window = [] ∧ 3 < v.toNat ∨
    b.position = sum + 1 ∧ (∃ hi, b.window = [hi] ∧ 256 * hi.toNat + v.toNat ≠ b.sum.toNat)

/-- What a boot image holds: the Time Base setting, profile entries and tone entries, in order. -/
structure BootImage where
  prescale : Nat
  divisor  : Nat
  profiles : List (Fin 16 × Record)
  tones    : List (Fin 4 × Vector Byte 256)

/-- R162: an image that passes every test. -/
def BootImage.good (i : BootImage) : Prop :=
  i.prescale ≤ 31 ∧ 1 ≤ i.divisor ∧ i.divisor ≤ 65535 ∧ i.profiles.length ≤ 16 ∧ i.tones.length ≤ 4 ∧
    ∀ e ∈ i.profiles, acceptable e.2

/-- R171: the bytes of an image before its sum. -/
def BootImage.content (i : BootImage) : List Byte :=
  [67, 82, BitVec.ofNat 8 i.profiles.length, BitVec.ofNat 8 i.tones.length, BitVec.ofNat 8 i.prescale]
    ++ beBytes 2 i.divisor ++ i.profiles.flatMap (fun e => BitVec.ofNat 8 e.1.val :: recordBytes e.2)
    ++ i.tones.flatMap (fun e => BitVec.ofNat 8 e.1.val :: e.2.toList)

/-- R162, R171: the bytes of an image, its sum last: the sum of every byte before it, modulo 65,536. -/
def BootImage.bytes (i : BootImage) : List Byte :=
  i.content ++ beBytes 2 ((i.content.map BitVec.toNat).sum % 65536)

/-- R36: the Table Store after the image is applied: the setting, then each profile entry, then each tone entry. -/
def BootImage.applied (i : BootImage) (t : TableStore) : TableStore :=
  let t := { t with prescale := i.prescale, divisor := i.divisor }
  let t := i.profiles.foldl (fun t e => { t with profiles := t.profiles.set e.1 ⟨true, e.2⟩ }) t
  i.tones.foldl (fun t e => { t with tones := t.tones.set e.1 e.2 }) t

/-- R161: what a pass over the whole image does on the bus, newest first: every byte acknowledged but the last, then a stop.
-/
def BootImage.passBus (i : BootImage) : List BusEvent :=
  .stop :: .noAck :: List.replicate (i.bytes.length - 1) .ack

/-- BOOT_BYTE_READ for one byte after another, for as long as each gives a next state. -/
def readsBytes : List Byte → State → Option State
  | [], s => some s
  | b :: rest, s =>
    match exec (.bootByteRead b) s with
    | .next t => readsBytes rest t
    | _ => none

end Sys2Proof.Machine
end

