-- ==== Sys2Proof/Certificates/Slice0/Obligations.lean ====
section
/-! DEFINITION. The statements about the part. A statement gives the whole next state, so that it says what a command
changes and that it changes nothing else. -/

open Sys2Proof Sys2Proof.Machine

/-! ## The machine -/

/-- A step runs the command at the front of the queue, on the state with the queue's rest. -/
def Obligations.StepRunsFrontCommand : Prop :=
  ∀ (c : Instr) (rest : List Instr) (s : State), step (s.withPending (c :: rest)) = exec c (s.withPending rest)

/-! ## Resets -/

/-- POWER_ON returns every block to its power-on values, samples the straps, begins the start-up sequence with USTOP#
asserted, and addresses the boot memory. The model's choices: the whole addressing stands on the bus at once (log 29), and
nothing stands there for the end of a boot load that was in progress (log 34); the record of the port and the bus (log 21),
the index of the free choices (log 11) and the level of DSTOP# stand, and the power comes on with RESET# deasserted (log 2).
-/
def Obligations.PowerOnResetsEveryBlock : Prop :=
  ∀ (adr : BitVec 5) (s : State), ∃ t : State, exec (.powerOn adr) s = .next t ∧ BlocksAtReset .powerOn t ∧
    t.resetLine = false ∧ t.partAddress = adr ∧ t.startUp = true ∧ t.boot = checkPass .startUp ∧ t.ustop = true ∧
    t.bus = [.device 84 true, .start, .wordAddress 0, .wordAddress 0, .device 84 false, .start] ++ s.bus ∧
    OutsideKept s t

/-- RESET_ASSERT ends everything in progress: every block takes its RESET# values, USTOP# is asserted, the wires of a boot
load in progress are released, and while RESET# is asserted arriving symbols are dropped uncounted and nothing is sent.
RESET_RELEASE samples the straps and begins a new start-up sequence with a check pass. The model's readings: the part
address stands until the release, and the values are in force from the assertion on (log 28); the level of DSTOP# (log 2),
the record of the port and the bus (log 21) and the index of the free choices (log 11) stand over RESET#; the whole
addressing stands on the bus at once (log 29); a release while RESET# is not asserted changes nothing (log 22). -/
def Obligations.ResetLineHoldsAndRestartsPart : Prop :=
  (∀ s : State, ∃ t : State, exec .resetAssert s = .next t ∧ BlocksAtReset .resetLine t ∧ t.resetLine = true ∧
    t.partAddress = s.partAddress ∧ t.startUp = false ∧ t.boot = {} ∧ t.ustop = true ∧ OutsideKept s t ∧
    t.bus = (if s.boot.phase = .idle then s.bus else .released :: s.bus) ∧
    (∀ sym : Symbol, exec (.symbolArrival sym) t = .next t) ∧ exec .emitUnitBegin t = .next t ∧
    exec .symbolSent t = .next t) ∧
  (∀ (adr : BitVec 5) (s : State),
    (s.resetLine = true →
      exec (.resetRelease adr) s =
        .next
          { s with
            resetLine := false
            startUp := true
            partAddress := adr
            boot := checkPass .startUp
            bus := busAddressing.reverse ++ s.bus }) ∧
    (s.resetLine = false → exec (.resetRelease adr) s = .next s))

/-- The machine's reset state: every block at its power-on values with the start-up sequence begun; and it meets all that
every step keeps. That the straps read 0 and DSTOP# is deasserted there is the model's choice (log 1, log 2), and so is that
the memory's addressing stands on the bus, and nothing on the port (log 29, log 21). -/
def Obligations.ResetStateHoldsValuesAndInvariants : Prop :=
  BlocksAtReset .powerOn State.reset ∧ State.reset.pending = [] ∧ State.reset.startUp = true ∧
    State.reset.resetLine = false ∧ State.reset.boot = checkPass .startUp ∧ State.reset.ustop = true ∧
    State.reset.partAddress = 0 ∧ State.reset.dstop = false ∧ State.reset.bus = busAddressing.reverse ∧
    State.reset.dtx = [] ∧
    ResourcesBalanced State.reset ∧ WithinBounds State.reset ∧ StackNested State.reset ∧ TablesLegal State.reset

/-! ## Symbols on the upstream port -/

/-- R143: a symbol that arrives while LRX is not free joins the receive FIFO, or is a counted overrun if the FIFO holds 64;
one that arrives while RESET# is asserted is dropped uncounted. R135, R136, R138: what LRX takes in WATCH: a good tag begins
a unit; a bad tag is a damaged header; a data symbol is extra data. Inside a header: a tag or a bad length symbol is one
damaged header (log 14), and a good tag begins the next unit; the first good length symbol is kept; with the second, L is
known, and the data symbols of an own, broadcast or dropped unit are to come (those of a transit unit:
`TransitSymbolsWrittenOrCounted`). With L = 0 the unit ends at once: a dropped one without effect, an own image unit as a
stray (R140), a request as one cut short (`RequestRefusedAtItsEnd`). The class of the unit that a tag begins is that of its
kind and address, for a part with its own address `part`, 31 included. -/
def Obligations.SymbolArrivesAndUnitBegins : Prop :=
  (∀ (sym : Symbol) (s : State),
    (s.resetLine = true → exec (.symbolArrival sym) s = .next s) ∧
    (s.resetLine = false → s.lrxFree = false → s.lrx.fifo.length < 64 →
      exec (.symbolArrival sym) s = .next (s.withLrx { s.lrx with fifo := s.lrx.fifo ++ [sym] })) ∧
    (s.resetLine = false → s.lrxFree = false → 64 ≤ s.lrx.fifo.length →
      exec (.symbolArrival sym) s =
        .next
          (s.withReq
            { s.req with
              rxOverrun := min 65535 (s.req.rxOverrun + 1)
              events := { s.req.events with rxOverrun := true } }))) ∧
  (∀ (sym : Symbol) (s : State), s.lrxFree = true → s.lrx.fifo = [] →
    (s.lrx.parse = .watch →
      exec (.symbolArrival sym) s =
        .next
          (if isTag sym = false then s.withReq { s.req with extraData := min 65535 (s.req.extraData + 1) }
          else if parityError sym then
            s.withReq
              { s.req with
                tagParity := min 65535 (s.req.tagParity + 1)
                events := { s.req.events with tagParity := true } }
          else s.withLrx { s.lrx with parse := .header (classify s.partAddress sym) sym none })) ∧
    (∀ (cls : UnitClass) (tag : Symbol) (hi : Option Symbol), s.lrx.parse = .header cls tag hi →
      (isTag sym = true ∨ parityError sym = true →
        exec (.symbolArrival sym) s =
          .next
            ((s.withReq
              { s.req with
                tagParity := min 65535 (s.req.tagParity + 1)
                events := { s.req.events with tagParity := true } }).withLrx
              { s.lrx with
                parse :=
                  if isTag sym = true ∧ parityError sym = false then .header (classify s.partAddress sym) sym none
                  else .watch })) ∧
      (isTag sym = false → parityError sym = false →
        (hi = none →
          exec (.symbolArrival sym) s = .next (s.withLrx { s.lrx with parse := .header cls tag (some sym) })) ∧
        (∀ h, hi = some h →
          (lengthOf h sym ≠ 0 → cls ≠ .transit →
            exec (.symbolArrival sym) s =
              (let dest : Dest :=
                if cls = .dropped then .drop
                else if cls = .broadcast ∨ tagKind tag = 3 then .awaitKind []
                else .awaitLane
               .next (s.withLrx { s.lrx with parse := .body ⟨cls, tag, h, sym, lengthOf h sym, dest⟩ }))) ∧
          (lengthOf h sym = 0 → cls = .dropped →
            exec (.symbolArrival sym) s = .next (s.withLrx { s.lrx with parse := .watch })) ∧
          (lengthOf h sym = 0 → cls = .own → tagKind tag ≠ 3 →
            exec (.symbolArrival sym) s =
              .next
                ((s.withReq
                  { s.req with
                    stray := min 65535 (s.req.stray + 1)
                    events := { s.req.events with stray := true } }).withLrx { s.lrx with parse := .watch })))))) ∧
  ∀ (kind : BitVec 3) (addr part : BitVec 5),
    classify part (tagSymbol kind addr) =
      (if kind = 7 then .dropped
      else if 4 ≤ kind.toNat then .transit
      else if kind = 3 then (if addr = 31 then .broadcast else if addr = part then .own else .transit)
      else if addr = part ∧ addr ≠ 31 then .own
      else .transit)

/-- R136: a data symbol, good or bad, taken by the unit that it belongs to, of which `left` more are to come (those of a
transit unit: `TransitSymbolsWrittenOrCounted`). A dropped unit, a FILL or a stray, counts it down. An own image unit without
a good lane symbol of 0 to 3 becomes a stray (R140), and so does a LINE or ITEM CLOSE for an IDLE lane. A lane that takes the
unit: an IDLE one begins an ITEM OPEN's header; one in OPEN or DISCARD counts a LINE, or caps it; one in OPEN begins an ITEM
CLOSE, one in DISCARD ends its item by it (log 17). What the lane then takes: ten header symbols, the unit's end passing
fewer, which open the item or refuse it (R3 to R5; a field of which only some symbols arrived recorded as 0, log 15; the
values that the band store keeps, log 20); the pixels of a line, each passed with a bad one repeated, the W_in-th ending the
line (log 16), a further one making it long, and the unit's end making up a short one (R10, R11; log 11); two count symbols
of an ITEM CLOSE, checked (R13), the room for the closing output tested in the same event (log 6). A request keeps its tag
symbol, and with its kind symbol it is taken, or held with LRX in WATCH (log 32); each symbol after them is recorded, and
copied if it is a broadcast one, up to their limits (R140 to R142, R149). The last symbol of a request that is refused:
`RequestRefusedAtItsEnd`. -/
def Obligations.DataSymbolTakenByItsUnit : Prop :=
  ∀ (d : DataByte) (s : State) (u : CurrentUnit) (left : Nat), s.lrxFree = true → s.lrx.fifo = [] →
    s.lrx.parse = .body u → u.remaining = left + 1 →
    (let sym := dataByteSymbol d
     let goesTo := fun (dest : Dest) =>
      s.withLrx { s.lrx with parse := if left = 0 then .watch else .body { u with remaining := left, dest := dest } }
     (u.dest = .drop → exec (.symbolArrival sym) s = .next (goesTo .drop)) ∧
     (u.dest = .awaitLane → tagKind u.tag ≠ 3 →
      (d.bad = true ∨ 3 < d.value.toNat ∨
        tagKind u.tag ≠ 0 ∧ (s.lane (Fin.ofNat 4 d.value.toNat)).state = .idle →
        exec (.symbolArrival sym) s =
          .next
            ((goesTo .drop).withReq
              { s.req with
                stray := min 65535 (s.req.stray + 1)
                events := { s.req.events with stray := true } })) ∧
      (∀ n : Fin 4, d.bad = false → d.value.toNat = n.val → left ≠ 0 →
        (let l := s.lane n
         (tagKind u.tag = 0 → l.state = .idle → s.req.bootRunning = none →
          exec (.symbolArrival sym) s = .next ((goesTo (.lane n)).setLane n { l with taking := .header [sym] })) ∧
         (tagKind u.tag = 1 → l.state = .opened ∨ l.state = .discard →
          exec (.symbolArrival sym) s =
            .next
              ((goesTo (.lane n)).setLane n
                (if l.lineCount < 4096 then
                  { l with
                    stallTimer := 0
                    lineCount := l.lineCount + 1
                    taking := if l.state = .opened then .line 0 255 else .dropping }
                else { l with stallTimer := 0, flags := { l.flags with lineCap := true }, taking := .dropping }))) ∧
         (tagKind u.tag = 2 →
          (l.state = .opened →
            exec (.symbolArrival sym) s = .next ((goesTo (.lane n)).setLane n { l with taking := .close [sym] })) ∧
          (l.state = .discard →
            exec (.symbolArrival sym) s = .next ((goesTo (.lane n)).itemEnds n { l with taking := .dropping })))))) ∧
     (∀ n : Fin 4, u.dest = .lane n →
      (let l := s.lane n
       let wIn := l.header.wIn.toNat
       let rest := goesTo (.lane n)
       let ends := fun (t : Taking) => if left = 0 then Taking.none else t
       (l.taking = .none ∨ l.taking = .dropping →
        exec (.symbolArrival sym) s = .next (rest.setLane n { l with taking := ends l.taking })) ∧
       (∀ data : List DataByte, l.taking = .header (data.map dataByteSymbol) → data.length < 10 →
        (let h := receivedHeader (data ++ [d])
         let slot := s.tables.profiles[Fin.ofNat 16 h.profile.toNat]
         (data.length < 9 → left ≠ 0 →
          exec (.symbolArrival sym) s =
            .next (rest.setLane n { l with taking := .header ((data ++ [d]).map dataByteSymbol) })) ∧
         (data.length = 9 ∨ left = 0 →
          (headerRefused (data ++ [d]) →
            exec (.symbolArrival sym) s =
              .next (rest.setLane n { discardedLane h .badHeader l with taking := ends .dropping })) ∧
          (¬headerRefused (data ++ [d]) → slot.valid = false →
            exec (.symbolArrival sym) s =
              .next (rest.setLane n { discardedLane h .noProfile l with taking := ends .dropping })) ∧
          (¬headerRefused (data ++ [d]) → slot.valid = true →
            exec (.symbolArrival sym) s = .next (rest.itemOpened n h slot.record (ends .dropping)))))) ∧
       (∀ (arrived : Nat) (prev : Byte), l.taking = .line arrived prev →
        (let v := if d.bad then prev else d.value
         (arrived + 1 < wIn → left ≠ 0 →
          exec (.symbolArrival sym) s =
            .next (rest.setLane n { pixelPassed prev d l with taking := .line (arrived + 1) v })) ∧
         (arrived + 1 < wIn → left = 0 →
          exec (.symbolArrival sym) s = .next (rest.lineMadeUp n (pixelPassed prev d l) (arrived + 1) .none)) ∧
         (arrived + 1 = wIn →
          exec (.symbolArrival sym) s =
            .next (rest.lineEnds n { pixelPassed prev d l with taking := ends (.line (arrived + 1) v) })) ∧
         (wIn ≤ arrived →
          exec (.symbolArrival sym) s =
            .next
              (rest.setLane n
                { l with
                  longLines := if arrived = wIn then l.longLines + 1 else l.longLines
                  flags := { l.flags with longLines := l.flags.longLines || decide (arrived = wIn) }
                  taking := ends (.line (arrived + 1) prev) })))) ∧
       (∀ data : List DataByte, l.taking = .close (data.map dataByteSymbol) → data.length < 3 → l.state = .opened →
        (let good := data.length = 2 ∧ (∀ e ∈ (data ++ [d]).drop 1, e.bad = false) ∧
          receivedField (data ++ [d]) 1 2 = l.lineCount
         (data.length < 2 → left ≠ 0 →
          exec (.symbolArrival sym) s =
            .next (rest.setLane n { l with taking := .close ((data ++ [d]).map dataByteSymbol) })) ∧
         (data.length = 2 ∨ left = 0 →
          (good → exec (.symbolArrival sym) s = .next (rest.itemEnds n { l with taking := ends .dropping })) ∧
          (¬good →
            exec (.symbolArrival sym) s =
              .next
                (rest.itemEnds n
                  { l with flags := { l.flags with countMismatch := true }, taking := ends .dropping }))))))) ∧
     (tagKind u.tag = 3 →
      (u.dest = .awaitKind [] → left ≠ 0 →
        exec (.symbolArrival sym) s = .next (goesTo (.awaitKind [sym]))) ∧
      (∀ first : Symbol, u.dest = .awaitKind [first] →
        (8 ≤ s.replies.length + s.req.owed ∨ (s.req.bootRunning.isSome = true ∧ d.bad = false ∧ d.value = 9) →
          exec (.symbolArrival sym) s =
            .next
              (s.withLrx
                { s.lrx with
                  parse := .watch
                  hold := some { unit := { u with remaining := left }, data := [first, sym], ended := decide (left = 0) } })) ∧
        (s.replies.length + s.req.owed < 8 → (s.req.bootRunning = none ∨ d.bad = true ∨ d.value ≠ 9) → left ≠ 0 →
          exec (.symbolArrival sym) s = .next (s.requestTaken { u with remaining := left } [first, sym])))) ∧
     (∀ q : RequestInProgress, u.dest = .request → s.req.inProgress = some q →
      (let full := 262 ≤ s.lrx.copy.length
       let got : RequestInProgress :=
        { q with data := if q.data.length < 259 then q.data ++ [sym] else q.data, received := q.received + 1 }
       left ≠ 0 →
        exec (.symbolArrival sym) s =
          .next
            (((goesTo .request).withReq { s.req with inProgress := some got }).withLrx
              { (goesTo .request).lrx with
                copy := if u.cls = .broadcast ∧ ¬full then s.lrx.copy ++ [sym] else s.lrx.copy
                copyCut := s.lrx.copyCut || decide (u.cls = .broadcast ∧ full) }))))

/-- R125, R141, R144, R146, R160: USTOP# is asserted exactly while RESET# is asserted, the start-up sequence or a boot load
runs, a unit is held, the Transit FIFO holds more than 2,048 symbols, or some lane's output store has less than 16,896 bytes
free, the last but while ETX waits for a symbol of a transit unit it has begun. That it waits exactly while the Transit FIFO
is empty is the model's reading (log 26). -/
def Obligations.StopLineAssertedWhile : Prop :=
  ∀ s : State,
    s.ustop = true ↔
      s.resetLine = true ∨ s.startUp = true ∨ s.boot.phase ≠ .idle ∨ s.lrx.hold ≠ none ∨ 2048 < s.transit.length ∨
        ((∃ n, 32768 - ((s.lane n).store.map segSize).sum < 16896) ∧
          ¬∃ len sent, s.etx.current = some ⟨.transit len, sent⟩ ∧ s.transit = [])

/-- R144, R145: a transit unit's header and data symbols at the Transit FIFO: the header is written when its second length
symbol is taken, if three places are free, and otherwise it is dropped and counted as three overruns; a data symbol of a
written unit is written, or, finding the FIFO full, truncates the unit and is counted; every later one is counted. -/
def Obligations.TransitSymbolsWrittenOrCounted : Prop :=
  ∀ (sym tag hi lo : Symbol) (s : State), s.lrxFree = true → s.lrx.fifo = [] → isTag sym = false →
    (parityError sym = false → s.lrx.parse = .header .transit tag (some hi) →
      exec (.symbolArrival sym) s =
        (let len := lengthOf hi sym
         let room := s.transit.length + 3 ≤ 4096
         let after : Parse :=
           if len = 0 then .watch
           else .body
             { cls := .transit, tag := tag, hi := hi, lo := sym, remaining := len, dest := .transit (decide room) }
         .next
           (((if room then s.withTransit (s.transit ++ [⟨tag, false⟩, ⟨hi, false⟩, ⟨sym, false⟩])
             else
              s.withReq
                { s.req with
                  txOverrun := min 65535 (s.req.txOverrun + 3)
                  events := { s.req.events with transitOverrun := true } })).withLrx { s.lrx with parse := after }))) ∧
    (∀ (left : Nat) (written : Bool),
      s.lrx.parse = .body ⟨.transit, tag, hi, lo, left + 1, .transit written⟩ →
      exec (.symbolArrival sym) s =
        (let room := written = true ∧ s.transit.length < 4096
         let after : Parse :=
           if left = 0 then .watch else .body ⟨.transit, tag, hi, lo, left, .transit (decide room)⟩
         .next
           ((if room then s.withTransit (s.transit ++ [⟨sym, false⟩])
            else
              State.countTransitOverrun 1 (if written then s.endTransit else s)).withLrx
                { s.lrx with parse := after })))

/-- R137: a tag that arrives inside a unit ends it early, and is then taken as in WATCH. A unit whose data is dropped just
ends; a transit unit is truncated at the last symbol written for it, which ends the unit that ETX is sending where it has
left already (log 12); an own image unit without its lane symbol is a stray; a lane that takes an ITEM OPEN goes to DISCARD
with BAD_HEADER (a field of which only some symbols arrived recorded as 0, log 15; its band index and T_prev standing, log
20), one that takes a LINE makes it up with white pixels and ends it (R94, R95; log 11), and one in OPEN that takes an ITEM
CLOSE ends its item with COUNT_MISMATCH, the room for its closing output tested in the same event (log 6). -/
def Obligations.UnitEndedEarlyByTag : Prop :=
  ∀ (sym : Symbol) (s : State) (u : CurrentUnit), s.lrxFree = true → s.lrx.fifo = [] → s.lrx.parse = .body u →
    isTag sym = true →
    (u.dest = .drop ∨ u.dest = .transit false → exec (.symbolArrival sym) s = .next (s.beginsUnit sym)) ∧
    (u.dest = .transit true →
      (∀ rest last, s.transit = rest ++ [last] →
        exec (.symbolArrival sym) s =
          .next ((s.withTransit (rest ++ [{ last with endMark := true }])).beginsUnit sym)) ∧
      (s.transit = [] →
        exec (.symbolArrival sym) s =
          .next
            ((match s.etx.current with
              | some ⟨.transit _, _⟩ => s.withEtx { s.etx with current := none }
              | _ => s).beginsUnit sym))) ∧
    (u.dest = .awaitLane →
      exec (.symbolArrival sym) s =
        .next
          ((s.withReq
            { s.req with
              stray := min 65535 (s.req.stray + 1)
              events := { s.req.events with stray := true } }).beginsUnit sym)) ∧
    (∀ n, u.dest = .lane n →
      ((s.lane n).taking = .none ∨ (s.lane n).taking = .dropping →
        exec (.symbolArrival sym) s = .next ((s.setLane n { s.lane n with taking := .none }).beginsUnit sym)) ∧
      (∀ data : List DataByte, (s.lane n).taking = .header (data.map dataByteSymbol) → data.length < 10 →
        exec (.symbolArrival sym) s =
          .next
            ((s.setLane n (discardedLane (receivedHeader data) .badHeader (s.lane n))).beginsUnit sym)) ∧
      (∀ arrived prev, (s.lane n).taking = .line arrived prev →
        (arrived < (s.lane n).header.wIn.toNat →
          exec (.symbolArrival sym) s = .next ((s.lineMadeUp n (s.lane n) arrived .none).beginsUnit sym)) ∧
        ((s.lane n).header.wIn.toNat ≤ arrived →
          exec (.symbolArrival sym) s = .next ((s.setLane n { s.lane n with taking := .none }).beginsUnit sym))) ∧
      (∀ syms, (s.lane n).taking = .close syms → syms.length < 3 → (s.lane n).state = .opened →
        exec (.symbolArrival sym) s =
          .next
            ((s.itemEnds n
              { s.lane n with
                flags := { (s.lane n).flags with countMismatch := true }
                taking := .none }).beginsUnit sym)))

/-! ## Items -/

/-- R2, R3, R4: a whole ITEM OPEN that an IDLE lane takes, its header good and its profile valid, opens the item: the
header and a copy of the record, the widths of R43, the band height that R54 grants, the channels of R40, and all else
cleared; the Band Pool falls by the grant and the tone table's in-use count rises with G. The band store of an item
without B keeps its band index and T_prev (log 20). A unit's command
is the arrival of its symbols (log 5). -/
def Obligations.ItemOpenOpensItem : Prop :=
  ∀ (s : State) (n : Fin 4) (u : ImageUnit) (d : DataByte) (ds : List DataByte),
    s.linkIdle → s.partAddress ≠ 31 → s.req.bootRunning = none → (s.lane n).state = .idle → wholeImage u →
    u.data = d :: ds → d.bad = false → d.value.toNat = n.val → ¬headerRefused u.data →
    s.tables.profiles[Fin.ofNat 16 (receivedHeader u.data).profile.toNat].valid = true →
    exec (.itemOpen u) s =
      (let h := receivedHeader u.data
       .next (s.itemOpened n h s.tables.profiles[Fin.ofNat 16 h.profile.toNat].record .none))

/-- R3, R5: a whole ITEM OPEN that an IDLE lane takes goes to DISCARD if its header is refused: with BAD_HEADER by the
header's own checks, with NO_PROFILE if the profile it names is not valid. Nothing but the lane changes. That a header field
of which only some symbols arrived is recorded as 0 is the model's choice (log 15), and so is that the band store keeps its
band index and T_prev (log 20). A unit's command is the arrival of its
symbols (log 5). -/
def Obligations.ItemOpenRefusedDiscards : Prop :=
  ∀ (s : State) (n : Fin 4) (u : ImageUnit) (d : DataByte) (ds : List DataByte),
    s.linkIdle → s.partAddress ≠ 31 → s.req.bootRunning = none → (s.lane n).state = .idle → wholeImage u →
    u.data = d :: ds → d.bad = false → d.value.toNat = n.val →
    (headerRefused u.data →
      exec (.itemOpen u) s =
        .next (s.setLane n (discardedLane (receivedHeader u.data) .badHeader (s.lane n)))) ∧
    (¬headerRefused u.data →
      s.tables.profiles[Fin.ofNat 16 (receivedHeader u.data).profile.toNat].valid = false →
      exec (.itemOpen u) s =
        .next (s.setLane n (discardedLane (receivedHeader u.data) .noProfile (s.lane n))))

/-- R2, R7, R8, R19, R141: a whole ITEM OPEN presented to a lane in OPEN or DISCARD ends that lane's item with SUPERSEDED and
no count check. Where the lane finds room for its closing output in the same event and so enters IDLE, the unit is presented
again in that event and taken as by any IDLE lane; otherwise it is held, and its further symbols wait in the receive FIFO.
When the room is tested is the model's reading (log 6, log 7); that LRX stands in WATCH during the hold is its choice (log
32). A unit's command is the arrival of its symbols (log 5). -/
def Obligations.ItemOpenSupersedes : Prop :=
  ∀ (s : State) (n : Fin 4) (u : ImageUnit) (d : DataByte) (ds : List DataByte),
    s.linkIdle → s.partAddress ≠ 31 → s.req.bootRunning = none →
    ((s.lane n).state = .opened ∨ (s.lane n).state = .discard) → wholeImage u →
    u.data = d :: ds → d.bad = false → d.value.toNat = n.val →
    (let t := s.itemEnds n { s.lane n with flags := { (s.lane n).flags with superseded := true } }
     ((t.lane n).state = .idle → exec (.itemOpen u) s = exec (.itemOpen u) t) ∧
     ((t.lane n).state ≠ .idle →
       (t.lane n).state = .closing ∧
       exec (.itemOpen u) s =
         .next
          ((t.withLrx
            { s.lrx with
              hold := some (heldImage 0 s.partAddress u.length (dataByteSymbol d) ds.length) }).backlog
                (ds.map dataByteSymbol))))

/-- R2, R8, R14, R141: an image unit for a lane in CLOSING is held and changes nothing else, and so is an ITEM OPEN for any
lane while RELOAD BOOT runs. That LRX stands in WATCH during the hold is the model's choice (log 32). A unit's command
is the arrival of its symbols (log 5). -/
def Obligations.ImageUnitHeld : Prop :=
  ∀ (s : State) (n : Fin 4) (u : ImageUnit) (d : DataByte) (ds : List DataByte) (c : Instr) (kind : BitVec 3),
    (c, kind) ∈ [(Instr.itemOpen u, 0), (.line u, 1), (.itemClose u, 2)] →
    s.linkIdle → s.partAddress ≠ 31 → wholeImage u → u.data = d :: ds → d.bad = false → d.value.toNat = n.val →
    ((s.lane n).state = .closing ∨ (kind = 0 ∧ s.req.bootRunning.isSome = true)) →
    exec c s =
      .next
        ((s.withLrx
          { s.lrx with
            hold := some (heldImage kind s.partAddress u.length (dataByteSymbol d) ds.length) }).backlog
              (ds.map dataByteSymbol))

/-- R2, R12, R14: a stray image unit — without a good lane symbol of 0 to 3, or a LINE or ITEM CLOSE for an IDLE lane —
is counted, and raises STRAY_SEEN; nothing else changes. A unit's command
is the arrival of its symbols (log 5). -/
def Obligations.StrayUnitCounted : Prop :=
  ∀ (s : State) (u : ImageUnit) (c : Instr) (kind : BitVec 3),
    (c, kind) ∈ [(Instr.itemOpen u, 0), (.line u, 1), (.itemClose u, 2)] →
    s.linkIdle → s.partAddress ≠ 31 → wholeImage u →
    (match u.data with
      | [] => True
      | d :: _ =>
        d.bad = true ∨ 3 < d.value.toNat ∨
          (kind ≠ 0 ∧ (s.lane (Fin.ofNat 4 d.value.toNat)).state = .idle)) →
    exec c s =
      .next
        (s.withReq
          { s.req with
            stray := min 65535 (s.req.stray + 1)
            events := { s.req.events with stray := true } })

/-- R138, R144, R145: a part with straps 31 forwards every whole image unit, its symbols as received. A unit's command
is the arrival of its symbols (log 5). -/
def Obligations.AddressThirtyOneForwardsImages : Prop :=
  ∀ (s : State) (u : ImageUnit) (c : Instr) (kind : BitVec 3),
    (c, kind) ∈ [(Instr.itemOpen u, 0), (.line u, 1), (.itemClose u, 2)] →
    s.linkIdle → s.partAddress = 31 → wholeImage u →
    exec c s =
      (let symbols := tagSymbol kind 31 :: hiSymbol u.length :: loSymbol u.length :: u.data.map dataByteSymbol
       let room := 4096 - s.transit.length
       .next
        (if symbols.length ≤ room then s.withTransit (s.transit ++ symbols.map fun y => ⟨y, false⟩)
        else if 3 ≤ room then
          State.countTransitOverrun (symbols.length - room)
            (s.withTransit
              (s.transit ++ (symbols.take (room - 1)).map (fun y => ⟨y, false⟩)
                ++ (symbols[room - 1]?.toList.map fun y => ⟨y, true⟩)))
        else State.countTransitOverrun symbols.length s))

/-- R9, R10, R11, R44, R45, R49, R94, R95: a whole LINE for a lane in OPEN below the line cap is counted; exactly W_in values
pass to the active channels, a bad pixel repeating the value before it (255 before pixel 0), surplus pixels dropped and
missing ones 255; then the line ends: the rows it completes are taken, and each segment they build is queued at the tail of
the store if its size is at most the free space, and otherwise dropped with OUTPUT_LOST, a dropped segment counted and
OUTPUT_LOST_SEEN set. Which of two segments goes first is the free choice, whose index is the model's (log 11). A unit's
command is the arrival of its symbols (log 5). -/
def Obligations.LineCountedAndPassed : Prop :=
  ∀ (s : State) (n : Fin 4) (u : ImageUnit) (d : DataByte) (pixels : List DataByte),
    s.linkIdle → s.partAddress ≠ 31 → (s.lane n).state = .opened → (s.lane n).lineCount < 4096 →
    1 ≤ (s.lane n).header.wIn.toNat → wholeImage u → u.data = d :: pixels → d.bad = false → d.value.toNat = n.val →
    exec (.line u) s = .next (s.lineEnds n (countedLine pixels (s.lane n)))

/-- R9, R12: a whole LINE at the line cap, or for a lane in DISCARD, passes no pixel: at the cap it adds LINE_CAP, below
it a lane in DISCARD counts it. A unit's command
is the arrival of its symbols (log 5). -/
def Obligations.LineCappedOrDiscarded : Prop :=
  ∀ (s : State) (n : Fin 4) (u : ImageUnit) (d : DataByte) (pixels : List DataByte),
    s.linkIdle → s.partAddress ≠ 31 → wholeImage u → u.data = d :: pixels → d.bad = false → d.value.toNat = n.val →
    (((s.lane n).state = .opened ∨ (s.lane n).state = .discard) → 4096 ≤ (s.lane n).lineCount →
      exec (.line u) s =
        .next
          (s.setLane n
            { s.lane n with
              stallTimer := 0, flags := { (s.lane n).flags with lineCap := true }, taking := .none })) ∧
    ((s.lane n).state = .discard → (s.lane n).lineCount < 4096 →
      exec (.line u) s =
        .next (s.setLane n { s.lane n with stallTimer := 0, lineCount := (s.lane n).lineCount + 1, taking := .none }))

/-- R13, R14, R18, R19: a whole ITEM CLOSE ends the item of a lane in OPEN, with COUNT_MISMATCH unless its declared count
arrived without error and equals the line counter, and that of a lane in DISCARD without a check. The room for the closing
output is tested in the same event (log 6). A unit's command is the arrival of its symbols (log 5). -/
def Obligations.ItemCloseEndsItem : Prop :=
  ∀ (s : State) (n : Fin 4) (u : ImageUnit) (d : DataByte) (ds : List DataByte),
    s.linkIdle → s.partAddress ≠ 31 → wholeImage u → u.data = d :: ds → d.bad = false → d.value.toNat = n.val →
    ((s.lane n).state = .opened →
      (∀ hi lo rest, ds = hi :: lo :: rest → hi.bad = false → lo.bad = false →
        256 * hi.value.toNat + lo.value.toNat = (s.lane n).lineCount →
        exec (.itemClose u) s = .next (s.itemEnds n { s.lane n with taking := .none })) ∧
      ((∀ hi lo rest, ds = hi :: lo :: rest →
          hi.bad = true ∨ lo.bad = true ∨ 256 * hi.value.toNat + lo.value.toNat ≠ (s.lane n).lineCount) →
        exec (.itemClose u) s =
          .next
            (s.itemEnds n
              { s.lane n with flags := { (s.lane n).flags with countMismatch := true }, taking := .none }))) ∧
    ((s.lane n).state = .discard → exec (.itemClose u) s = .next (s.itemEnds n { s.lane n with taking := .none }))

/-- R16, R19: the expiry of a running stall timer ends the item with STALLED and no count check; the line that a lane is
taking is first made up with white pixels and passed on. The timer runs in OPEN with a limit other than 0 and in
DISCARD, while USTOP# is deasserted and the prescale code is not 0; where it cannot expire nothing changes (log 22). That the
command finds the timer at any count and brings it to its limit, the Time Base and the other timers as they were, is the
model's reading (log 8), and so is that the room for the closing output is tested in the same event (log 6). The order of two
segments that the line's end builds is the free choice (log 11). -/
def Obligations.StallExpiryEndsItem : Prop :=
  ∀ (s : State) (n : Fin 4) (limit : Nat),
    ((s.lane n).state = .opened ∧ limit = (snapRecord (s.lane n).snap).stallLimit.toNat ∨
      (s.lane n).state = .discard ∧ limit = 255) →
    (limit = 0 ∨ s.tables.prescale = 0 ∨ s.ustop = true → exec (.stallExpiry n) s = .next s) ∧
    (limit ≠ 0 → s.tables.prescale ≠ 0 → s.ustop = false →
      (∀ arrived prev, (s.lane n).taking = .line arrived prev → arrived < (s.lane n).header.wIn.toNat →
        exec (.stallExpiry n) s =
          (let l := s.lane n
           let white := List.replicate (l.header.wIn.toNat - arrived) (255 : Byte)
           let t := s.lineEnds n
            { l with
              stallTimer := limit
              shortLines := l.shortLines + 1
              flags := { l.flags with shortLines := true }
              taking := .dropping
              b := white.foldl (fun ch v => channelTake v ch) l.b
              g := white.foldl (fun ch v => channelTake v ch) l.g }
           .next (t.itemEnds n { t.lane n with flags := { (t.lane n).flags with stalled := true } }))) ∧
      ((∀ arrived prev, (s.lane n).taking = .line arrived prev → (s.lane n).header.wIn.toNat ≤ arrived) →
        exec (.stallExpiry n) s =
          .next
            (s.itemEnds n
              { s.lane n with
                stallTimer := limit
                flags := { (s.lane n).flags with stalled := true }
                taking := if (s.lane n).taking = .none then .none else .dropping })))

/-- R19, R57, R96, R141: a lane that waits in CLOSING queues its final B segment, final G segment and result once its store
has room for all of them, enters IDLE, releases its allocation and its in-use count, and counts the item; a unit held for it
is then presented again in the same event (log 7). Until then it waits unchanged. Any other lane is left as it is (log 22).
That the wait is tested at a moment the sender chooses, besides the events that make room, is the model's reading (log 6). -/
def Obligations.ClosingLaneQueuesWhenRoom : Prop :=
  ∀ (s : State) (n : Fin 4),
    (let t := s.closingTested n (s.lane n)
     (s.lane n).state = .closing → (s.lane n).quality.composed.isSome = true →
      (¬((t.lane n).state = .idle ∧ s.holdsFor n) → exec (.closingQueue n) s = .next t) ∧
      ((t.lane n).state = .idle → s.holdsFor n → exec (.closingQueue n) s = exec .presentHeldUnit t)) ∧
    (¬((s.lane n).state = .closing ∧ (s.lane n).quality.composed.isSome = true) →
      exec (.closingQueue n) s = .next s)

/-- R2, R3, R8, R12, R14, R141, R142, R149: the held unit presented again. It stays held, without effect, while it is
refused: an image unit while its lane is in CLOSING or, an ITEM OPEN, while RELOAD BOOT runs; a request while the replies
queued and owed are eight or, a RELOAD BOOT, while one runs. Otherwise it is taken and LRX takes the symbols that wait: with
its further symbols waiting it has the effect of the whole unit on a free link; a LINE or ITEM CLOSE for an IDLE lane is a
stray; an ITEM OPEN is taken by an IDLE lane, refused with BAD_HEADER where its end has passed (its band index and T_prev
standing, log 20); a request is in progress, executed where its end has passed. The sender presents it again by this command,
and the model in each event that can change the refusal (log 7); with no unit held the command leaves the state as it is (log
22). That LRX stands in WATCH during a hold is its choice (log 32). A unit's command is the arrival of its symbols (log 5).
-/
def Obligations.HeldUnitPresentedAgain : Prop :=
  ∀ s : State,
    (s.lrx.hold = none → exec .presentHeldUnit s = .next s) ∧
    (∀ (n : Fin 4) (u : ImageUnit) (d : DataByte) (ds : List DataByte) (c : Instr) (kind : BitVec 3),
      (c, kind) ∈ [(Instr.itemOpen u, 0), (.line u, 1), (.itemClose u, 2)] →
      s.resetLine = false → s.startUp = false → s.partAddress ≠ 31 → wholeImage u → u.data = d :: ds → d.bad = false →
      d.value.toNat = n.val → ds.length ≤ 64 →
      s.lrx =
        { fifo := ds.map dataByteSymbol
          hold := some (heldImage kind s.partAddress u.length (dataByteSymbol d) ds.length) } →
      (s.lane n).state = .idle → (kind = 0 → s.req.bootRunning = none) →
      exec .presentHeldUnit s = exec c (s.withLrx {})) ∧
    (∀ (r : Request) (c : Instr) (kind : Byte),
      (c, kind) ∈
        [(Instr.loadProfile r, 1), (.readProfile r, 2), (.loadTone r, 3), (.readTone r, 4), (.loadTimebase r, 5),
          (.readStatus r, 6), (.abortLane r, 7), (.restartPart r, 8), (.reloadBoot r, 9)] →
      (s.withLrx {}).takesRequest kind r → wholeRequest r → r.operands.length ≤ 64 →
      s.lrx = { fifo := r.operands.map dataByteSymbol, hold := some (s.heldRequest kind r) } →
      exec .presentHeldUnit s = exec c (s.withLrx {})) ∧
    (∀ (h : Held) (laneSym : Symbol) (n : Fin 4), s.lrx.hold = some h → h.data = [laneSym] →
      (symValue laneSym).toNat = n.val → tagKind h.unit.tag ≠ 3 →
      ((s.lane n).state = .closing ∨ tagKind h.unit.tag = 0 ∧ s.req.bootRunning.isSome = true →
        exec .presentHeldUnit s = .next s) ∧
      (tagKind h.unit.tag ≠ 0 → (s.lane n).state = .idle →
        exec .presentHeldUnit s =
          .next
            ((s.withLrx
              { s.lrx with
                hold := none
                parse := if h.unit.remaining = 0 then .watch else .body { h.unit with dest := .drop } }).withReq
              { s.req with
                stray := min 65535 (s.req.stray + 1)
                events := { s.req.events with stray := true } }).drain) ∧
      (tagKind h.unit.tag = 0 → (s.lane n).state = .idle → s.req.bootRunning = none →
        (let taken :=
          s.withLrx
            { s.lrx with
              hold := none
              parse := if h.unit.remaining = 0 then .watch else .body { h.unit with dest := .lane n } }
         (h.ended = false →
           exec .presentHeldUnit s =
             .next (taken.setLane n { s.lane n with taking := .header [laneSym] }).drain) ∧
         (h.ended = true →
           exec .presentHeldUnit s =
             .next (taken.setLane n (discardedLane (receivedHeader []) .badHeader (s.lane n))).drain)))) ∧
    (∀ h : Held, s.lrx.hold = some h → tagKind h.unit.tag = 3 →
      (8 ≤ s.replies.length + s.req.owed ∨
        (s.req.bootRunning.isSome = true ∧ ∃ sym, h.data[1]? = some sym ∧ parityError sym = false ∧ symValue sym = 9) →
        exec .presentHeldUnit s = .next s) ∧
      (s.replies.length + s.req.owed < 8 →
        (s.req.bootRunning = none ∨ ∀ sym, h.data[1]? = some sym → parityError sym = true ∨ symValue sym ≠ 9) →
        (h.ended = false → exec .presentHeldUnit s = .next (s.requestTaken h.unit h.data).drain) ∧
        (h.ended = true →
          (lengthOf h.unit.hi h.unit.lo ≤ h.data.length →
            exec .presentHeldUnit s = .next (s.requestTaken h.unit h.data).requestEnd.drain) ∧
          (h.data.length < 2 → h.unit.remaining = 0 →
            exec .presentHeldUnit s =
              .next
                (((s.withReq { s.req with owed := s.req.owed + 1 }).withLrx { s.lrx with hold := none }).requestRefused
                  { length := lengthOf h.unit.hi h.unit.lo, data := h.data, received := h.data.length } .badLength
                  (if h.unit.cls = .broadcast then h.unit.tag :: h.unit.hi :: h.unit.lo :: h.data else s.lrx.copy)
                  (if h.unit.cls = .broadcast then decide (h.data.length < lengthOf h.unit.hi h.unit.lo)
                  else s.lrx.copyCut)).drain))))

/-- R18, R50, R62 to R64, R93, R96, R102: the closing work of a lane in OPEN ends with its channels inactive, the column sums
of each that was active all 0 and its lines merged 0, its band store and G group inactive and empty, and its result composed;
the partial rows, if any, are counted and taken. The band store as it then stands, if it is active and holds a row, is closed:
its segment is the final B segment, and its close is measured; otherwise there is none. The final G segment is that of the
group as it then stands, if it holds a row. That the rest of a channel stands is the model's choice (log 33), and so is that
the band store's first row does (log 31). -/
def Obligations.ClosingWorkFinishesOutput : Prop :=
  ∀ (tone : Vector Byte 256) (n : Fin 4) (l : Lane),
    l.state = .opened → l.coder.finalB = none → l.coder.finalG = none → l.coder.group.length < 4 →
    (l.band.active = true → l.band.rows.length < l.snap.h) →
    (l.band.active = false → l.band.rows = []) → (l.coder.groupOpen = false → l.coder.group = []) →
    (let c := closingWork tone n l
     let rowB := l.b.active = true ∧ 0 < l.b.linesMerged
     let rowG := l.g.active = true ∧ 0 < l.g.linesMerged
     let finished := fun (ch : Channel) =>
       if ch.active then
         { ch with
           active := false
           sums := List.replicate ch.wOut 0
           linesMerged := 0
           rowIndex := if 0 < ch.linesMerged then ch.rowIndex + 1 else ch.rowIndex }
       else ch
     let band :=
       match (channelFinish l.b).2 with
       | none => l
       | some (i, row) => if l.band.active then { l with band := rowTaken l.band i row } else l
     let group :=
       match (channelFinish l.g).2 with
       | none => (l, none)
       | some (i, row) => takeGRow tone n i row l
     let closes := band.band.active = true ∧ band.band.rows ≠ []
     c.state = .closing ∧ c.header = l.header ∧ c.snap = l.snap ∧ c.flags = l.flags ∧ c.lineCount = l.lineCount ∧
      c.store = l.store ∧ c.b.active = false ∧ c.g.active = false ∧ c.band.active = false ∧ c.band.rows = [] ∧
      c.coder.groupOpen = false ∧ c.coder.group = [] ∧ c.b = finished l.b ∧ c.g = finished l.g ∧
      c.b.rowIndex = (if rowB then l.b.rowIndex + 1 else l.b.rowIndex) ∧
      c.g.rowIndex = (if rowG then l.g.rowIndex + 1 else l.g.rowIndex) ∧
      ((channelFinish l.b).2.isSome = true ↔ rowB) ∧ ((channelFinish l.g).2.isSome = true ↔ rowG) ∧
      c.coder.finalB = (if closes then some (bandSegment n band) else none) ∧
      c.band = { (if closes then closeBand band else l).band with active := false } ∧
      c.quality =
        { (if closes then closeBand band else l).quality with
          composed := some (resultSegment n { c with quality := { c.quality with composed := none } }) } ∧
      c.coder.finalG = (if group.2.isSome then group.2 else (finishGroup n group.1).coder.finalG) ∧
      (c.coder.finalB.isSome = true ↔ l.band.active = true ∧ (l.band.rows ≠ [] ∨ rowB)) ∧
      (c.coder.finalG.isSome = true ↔ l.coder.groupOpen = true ∧ (l.coder.group ≠ [] ∨ rowG)))

/-! ## Requests -/

/-- R142, R144, R145, R150, R151: a whole request that the Request Unit takes is checked in order: a bad tag or kind symbol
gives BAD_PARITY, then an L other than its kind's gives BAD_LENGTH, then a bad operand symbol gives BAD_PARITY; a request
that fails changes nothing but the reply queue, and the Transit FIFO by the copy of a broadcast one. The copy (R142, R144,
R145) is the unit as it arrived, its first 262 symbols, with an end mark on the 262nd of a longer one: written behind what
the FIFO holds, up to the last free place with an end mark there where it does not fit, and not at all with fewer than three
places free; the symbols not written are counted as overruns. A unit's command is the arrival of its symbols (log 5). -/
def Obligations.RequestChecksInOrder : Prop :=
  ∀ (s : State) (r : Request) (c : Instr) (kind : Byte) (len : Nat),
    (c, kind, len) ∈
      [(Instr.loadProfile r, 1, 39), (.readProfile r, 2, 3), (.loadTone r, 3, 259), (.readTone r, 4, 3),
        (.loadTimebase r, 5, 5), (.readStatus r, 6, 2), (.abortLane r, 7, 3), (.restartPart r, 8, 2),
        (.reloadBoot r, 9, 2)] →
    s.takesRequest kind r → wholeRequest r →
    (r.tag.bad = true ∨ r.kindBad = true →
      exec c s = .next ((s.forwarded kind r).replied kind r .badParity [])) ∧
    (r.tag.bad = false → r.kindBad = false → r.length.toNat ≠ len →
      exec c s = .next ((s.forwarded kind r).replied kind r .badLength [])) ∧
    (r.tag.bad = false → r.kindBad = false → r.length.toNat = len → (∃ d ∈ r.operands, d.bad = true) →
      exec c s = .next ((s.forwarded kind r).replied kind r .badParity []))

/-- R141, R142, R149: a request that finds eight replies queued or owed, or a RELOAD BOOT, its kind symbol good, that finds
one running, is held once its kind has arrived; its further symbols wait in the receive FIFO, and nothing of it is forwarded.
It is held with its class, broadcast if it is addressed to 31 and own otherwise. That LRX stands in WATCH during the hold is
the model's choice (log 32). A unit's command is the arrival of its symbols (log 5). -/
def Obligations.RequestHeldWhileRefused : Prop :=
  ∀ (s : State) (r : Request) (c : Instr) (kind : Byte),
    (c, kind) ∈
      [(Instr.loadProfile r, 1), (.readProfile r, 2), (.loadTone r, 3), (.readTone r, 4), (.loadTimebase r, 5),
        (.readStatus r, 6), (.abortLane r, 7), (.restartPart r, 8), (.reloadBoot r, 9)] →
    s.linkIdle → wholeRequest r →
    (8 ≤ s.replies.length + s.req.owed ∨ (kind = 9 ∧ r.kindBad = false ∧ s.req.bootRunning.isSome = true)) →
    exec c s =
      .next
        ((s.withLrx { s.lrx with hold := some (s.heldRequest kind r) }).backlog (r.operands.map dataByteSymbol))

/-- R137, R140, R142, R149 to R151: a request unit for the part ends and is refused: with its last data symbol, or early, by
a tag, which is then taken as in WATCH. The checks go in the order of R150, BAD_KIND and a truncated unit's BAD_LENGTH among
them; the copy of a broadcast one is written into the Transit FIFO, marked as truncated where the link cut it. A unit that
ends before its kind symbol is BAD_LENGTH, or, while eight replies are queued or owed, is held with LRX in WATCH (log 32), a
tag that ended it waiting at the head of the receive FIFO (log 13). -/
def Obligations.RequestRefusedAtItsEnd : Prop :=
  ∀ (sym : Symbol) (s : State), s.lrxFree = true → s.lrx.fifo = [] →
    (∀ (u : CurrentUnit) (q : RequestInProgress) (code : ReplyCode), s.lrx.parse = .body u → u.dest = .request →
      s.req.inProgress = some q →
      (let got : RequestInProgress :=
        { q with data := if q.data.length < 259 then q.data ++ [sym] else q.data, received := q.received + 1 }
       let full := 262 ≤ s.lrx.copy.length
       isTag sym = false → u.remaining = 1 → requestFails got code →
        exec (.symbolArrival sym) s =
          .next
            (s.requestRefused got code (if u.cls = .broadcast ∧ ¬full then s.lrx.copy ++ [sym] else s.lrx.copy)
              (s.lrx.copyCut || decide (u.cls = .broadcast ∧ full)))) ∧
      (isTag sym = true → requestFails q code →
        exec (.symbolArrival sym) s =
          .next
            ((s.requestRefused q code s.lrx.copy (s.lrx.copyCut || decide (u.cls = .broadcast))).beginsUnit sym))) ∧
    (let refused := fun (u : CurrentUnit) (first : List Symbol) =>
      (s.withReq { s.req with owed := s.req.owed + 1 }).requestRefused
        { length := lengthOf u.hi u.lo, data := first, received := first.length } .badLength
        (if u.cls = .broadcast then u.tag :: u.hi :: u.lo :: first else s.lrx.copy)
        (if u.cls = .broadcast then decide (first.length < lengthOf u.hi u.lo) else s.lrx.copyCut)
     let heldWith := fun (u : CurrentUnit) (data waiting : List Symbol) =>
      s.withLrx
        { s.lrx with
          parse := .watch
          fifo := waiting
          hold := some { unit := { u with remaining := 0 }, data := data, ended := true } }
     (∀ (cls : UnitClass) (tag hi : Symbol), s.lrx.parse = .header cls tag (some hi) → cls = .own ∨ cls = .broadcast →
       tagKind tag = 3 → isTag sym = false → parityError sym = false → lengthOf hi sym = 0 →
       (s.replies.length + s.req.owed < 8 →
         exec (.symbolArrival sym) s = .next (refused ⟨cls, tag, hi, sym, 0, .awaitKind []⟩ [])) ∧
       (8 ≤ s.replies.length + s.req.owed →
         exec (.symbolArrival sym) s = .next (heldWith ⟨cls, tag, hi, sym, 0, .awaitKind []⟩ [] []))) ∧
     (∀ u : CurrentUnit, s.lrx.parse = .body u → tagKind u.tag = 3 →
       (u.dest = .awaitKind [] → isTag sym = false → u.remaining = 1 →
         (s.replies.length + s.req.owed < 8 → exec (.symbolArrival sym) s = .next (refused u [sym])) ∧
         (8 ≤ s.replies.length + s.req.owed →
           exec (.symbolArrival sym) s = .next (heldWith { u with dest := .awaitKind [sym] } [sym] []))) ∧
       (∀ first, u.dest = .awaitKind first → first.length < 2 → isTag sym = true →
         (s.replies.length + s.req.owed < 8 →
           exec (.symbolArrival sym) s = .next ((refused u first).beginsUnit sym)) ∧
         (8 ≤ s.replies.length + s.req.owed →
           exec (.symbolArrival sym) s = .next (heldWith u first [sym])))))

/-- R26, R27: LOAD PROFILE refuses an index above 15 with BAD_INDEX and a record that is not acceptable with BAD_VALUE, and
otherwise replaces the profile's record, byte for byte, and sets its valid flag. A unit's command
is the arrival of its symbols (log 5). -/
def Obligations.LoadProfileReplacesRecord : Prop :=
  ∀ (s : State) (r : Request) (index : Byte) (bytes : List Byte),
    s.takesRequest 1 r → wholeRequest r → cleanRequest r (index :: bytes) → bytes.length = 36 →
    (let t := s.forwarded 1 r
     (15 < index.toNat → exec (.loadProfile r) s = .next (t.replied 1 r .badIndex [])) ∧
     (index.toNat ≤ 15 → ¬acceptable (recordOfBytes bytes) →
       exec (.loadProfile r) s = .next (t.replied 1 r .badValue [])) ∧
     (∀ k : Fin 16, k.val = index.toNat → acceptable (recordOfBytes bytes) →
       exec (.loadProfile r) s =
         .next
          ((t.withTables
            { t.tables with profiles := t.tables.profiles.set k ⟨true, recordOfBytes bytes⟩ }).replied 1 r .done [])))

/-- R29, R33: READ PROFILE answers the valid flag and the record's bytes, READ TONE the 256 entries and the in-use count;
an index above 15 or 3 is answered by BAD_INDEX. Neither changes a table. A unit's command
is the arrival of its symbols (log 5). -/
def Obligations.ReadsReportTables : Prop :=
  ∀ (s : State) (r : Request) (index : Byte), wholeRequest r → cleanRequest r [index] →
    (s.takesRequest 2 r →
      (15 < index.toNat → exec (.readProfile r) s = .next ((s.forwarded 2 r).replied 2 r .badIndex [])) ∧
      (∀ k : Fin 16, k.val = index.toNat →
        exec (.readProfile r) s =
          .next
            ((s.forwarded 2 r).replied 2 r .done
              ((if s.tables.profiles[k].valid then 1 else 0) :: recordBytes s.tables.profiles[k].record)))) ∧
    (s.takesRequest 4 r →
      (3 < index.toNat → exec (.readTone r) s = .next ((s.forwarded 4 r).replied 4 r .badIndex [])) ∧
      (∀ k : Fin 4, k.val = index.toNat →
        exec (.readTone r) s =
          .next
            ((s.forwarded 4 r).replied 4 r .done
              (s.tables.tones[k].toList ++ [BitVec.ofNat 8 s.tables.inUse[k]]))))

/-- R32: LOAD TONE refuses an index above 3 with BAD_INDEX and a table in use with IN_USE, and otherwise replaces all 256
entries. A unit's command
is the arrival of its symbols (log 5). -/
def Obligations.LoadToneReplacesTable : Prop :=
  ∀ (s : State) (r : Request) (index : Byte) (entries : Vector Byte 256),
    s.takesRequest 3 r → wholeRequest r → cleanRequest r (index :: entries.toList) →
    (let t := s.forwarded 3 r
     (3 < index.toNat → exec (.loadTone r) s = .next (t.replied 3 r .badIndex [])) ∧
     (∀ k : Fin 4, k.val = index.toNat →
       (0 < s.tables.inUse[k] → exec (.loadTone r) s = .next (t.replied 3 r .inUse [])) ∧
       (s.tables.inUse[k] = 0 →
         exec (.loadTone r) s =
           .next
            ((t.withTables { t.tables with tones := t.tables.tones.set k entries }).replied 3 r .done []))))

/-- R35, R166: LOAD TIMEBASE refuses a code above 31 or a divisor of 0 with BAD_VALUE, and otherwise replaces the setting
and restarts the counts of the Time Base, even with the setting that stands; phase false stands for the longer half-step
interval (log 27). A unit's command is the arrival of its symbols (log 5). -/
def Obligations.LoadTimebaseReplacesSetting : Prop :=
  ∀ (s : State) (r : Request) (code hi lo : Byte),
    s.takesRequest 5 r → wholeRequest r → cleanRequest r [code, hi, lo] →
    (let t := s.forwarded 5 r
     let divisor := 256 * hi.toNat + lo.toNat
     (31 < code.toNat ∨ divisor = 0 → exec (.loadTimebase r) s = .next (t.replied 5 r .badValue [])) ∧
     (code.toNat ≤ 31 → divisor ≠ 0 →
       exec (.loadTimebase r) s =
         .next
          (((t.withTables { t.tables with prescale := code.toNat, divisor := divisor }).withTime
            { cycles := 0, phase := false, pulses := 0 }).replied 5 r .done [])))

/-- R153, R154, R171: READ STATUS answers the 74 bytes of the report and clears the event flags; the Transit FIFO's
occupancy counts a broadcast request's own copy (log 19). A unit's command
is the arrival of its symbols (log 5). -/
def Obligations.ReadStatusReports : Prop :=
  ∀ (s : State) (r : Request), s.takesRequest 6 r → wholeRequest r → cleanRequest r [] →
    (let t := s.forwarded 6 r
     let lane := fun (l : Lane) =>
       (match l.state with | .idle => (0 : Byte) | .opened => 1 | .discard => 2 | .closing => 3)
         :: (beBytes 4 l.header.item.toNat ++ beBytes 2 l.lineCount
           ++ beBytes 2 (32768 - (l.store.map segSize).sum))
     let events := t.req.events
     let flags := events.tagParity.toNat + 2 * events.rxOverrun.toNat + 4 * events.transitOverrun.toNat
       + 8 * events.stray.toNat + 16 * events.outputLost.toNat
     let report :=
       [t.partAddress.setWidth 8,
         (match t.req.lastReset with | .powerOn => (0 : Byte) | .resetLine => 1 | .request => 2),
         BitVec.ofNat 8 t.tables.prescale] ++ beBytes 2 t.tables.divisor
       ++ lane (t.lane 0) ++ lane (t.lane 1) ++ lane (t.lane 2) ++ lane (t.lane 3)
       ++ beBytes 4 t.pool ++ beBytes 2 t.transit.length
       ++ beBytes 2 t.req.stray ++ beBytes 2 t.req.tagParity ++ beBytes 2 t.req.extraData
       ++ beBytes 2 t.req.rxOverrun ++ beBytes 2 t.req.txOverrun
       ++ beBytes 4 t.req.itemsCompleted[0] ++ beBytes 4 t.req.itemsCompleted[1]
       ++ beBytes 4 t.req.itemsCompleted[2] ++ beBytes 4 t.req.itemsCompleted[3] ++ [BitVec.ofNat 8 flags]
     report.length = 74 ∧
       exec (.readStatus r) s =
         .next
          ((t.withReq
            { t.req with
              events :=
                { tagParity := false, rxOverrun := false, transitOverrun := false, stray := false
                  outputLost := false } }).replied 6 r .done report))

/-- R19 to R21, R51, R65, R97, R112, R155: ABORT LANE answers BAD_INDEX for a lane above 3 and DONE otherwise. In OPEN it
drops the item's partial output and ends the item with ABORTED, in DISCARD it ends the item with ABORTED, in CLOSING it
discards the final segments and adds ABORTED unless that is set already; the result is then composed again and queued if
there is room. An IDLE lane is unchanged. That the G settings and the group's first row stand after an abort in OPEN is the
model's choice (log 30), and so is that the band store's first row does (log 31), and a channel but for its activity, column
sums and lines merged (log 33). The room for the closing output is tested in the same event (log 6). A unit's command is the arrival of its symbols (log 5). -/
def Obligations.AbortLaneEndsItem : Prop :=
  ∀ (s : State) (r : Request) (index : Byte), s.takesRequest 7 r → wholeRequest r → cleanRequest r [index] →
    (let t := s.forwarded 7 r
     (3 < index.toNat → exec (.abortLane r) s = .next (t.replied 7 r .badIndex [])) ∧
     (∀ n : Fin 4, n.val = index.toNat →
       let l := s.lane n
       let aborted : Lane := { l with state := .closing, flags := { l.flags with aborted := true } }
       let dropped := fun (ch : Channel) =>
         if ch.active then { ch with active := false, sums := List.replicate ch.wOut 0, linesMerged := 0 } else ch
       (l.state = .opened →
         exec (.abortLane r) s =
           .next
            ((t.closingTested n
              (compose n
                { aborted with
                  b := dropped l.b
                  g := dropped l.g
                  band := { l.band with active := false, rows := [], histogram := Vector.replicate 64 0 }
                  coder := { l.coder with groupOpen := false, group := [], prevPacked := none } })).replied 7 r
                    .done [])) ∧
       (l.state = .discard →
         exec (.abortLane r) s = .next ((t.closingTested n (compose n aborted)).replied 7 r .done [])) ∧
       (l.state = .closing → l.flags.aborted = false →
         exec (.abortLane r) s =
           .next
            ((t.closingTested n
              (compose n { aborted with coder := { l.coder with finalB := none, finalG := none } })).replied 7 r
                .done [])) ∧
       (l.state = .idle ∨ (l.state = .closing ∧ l.flags.aborted = true) →
         exec (.abortLane r) s = .next (t.replied 7 r .done []))))

/-- R22, R38, R59, R129, R132, R156: RESTART PART returns every block to its values for that reset, keeps the profiles, the
tone tables and the Time Base setting, and leaves the emission stack to be unwound: an own SEG CLOSE or a FILL in
progress is finished, any other unit is cut, and STARTED is pending with the request's tag. A broadcast one's copy is
written into the emptied Transit FIFO. It gets no reply. A symbol being sent is finished
(log 10); a boot load in progress ends with a stop. That the entry of a SEG CLOSE that is being finished stays on the stack
until its end, and then counts for the unwinding, is the model's reading (log 24). The records of the port and of the bus
(log 21) and the index of the free choices (log 11) are the model's and go on; phase false stands for the longer half-step
interval (log 27). A unit's command is the arrival of its symbols (log 5). -/
def Obligations.RestartPartRestarts : Prop :=
  ∀ (s : State) (r : Request), s.takesRequest 8 r → wholeRequest r → cleanRequest r [] →
    exec (.restartPart r) s =
      (let current :=
         match s.etx.current with
         | some ⟨.segClose _ syms, sent⟩ => some (⟨.segClose false syms, sent⟩ : Emitting)
         | some ⟨.abandoned syms, sent⟩ => some ⟨.abandoned syms, sent⟩
         | some ⟨.fill syms, sent⟩ => some ⟨.fill syms, sent⟩
         | _ => none
       let restarted : State :=
         { s with
           lrx := { fifo := [], parse := .watch, hold := none, copy := [], copyCut := false }
           transit := []
           lanes := Vector.replicate 4 laneAtReset
           pool := 131072
           replies := []
           etx :=
             { stack := s.etx.stack
               unwinding := decide (s.etx.stack ≠ [])
               started := some (.request, r.tag.value)
               rr0 := 3
               rr1 := 3
               alternation := .own
               current := current
               inFlight := s.etx.inFlight && current.isSome }
           tables := { s.tables with inUse := Vector.replicate 4 0 }
           req := requestUnitAtReset .request
           boot :=
             { phase := .idle, purpose := none, position := 0, profileCount := 0, toneCount := 0, sum := 0
               window := [], staging := { prescale := 0, divisor := 0, profiles := [], tones := [] } }
           bus := if s.boot.phase = .idle then s.bus else .stop :: s.bus
           time := { cycles := 0, phase := false, pulses := 0 } }
       .next (restarted.forwarded 8 r))

/-- R157: RELOAD BOOT is answered by BUSY unless every lane is IDLE; otherwise a check pass begins, which addresses the
boot memory (log 29; the record of the bus is the model's, log 21), and the reply stays owed. A unit's command is the arrival
of its symbols (log 5). -/
def Obligations.ReloadBootBeginsCheckPass : Prop :=
  ∀ (s : State) (r : Request), s.takesRequest 9 r → wholeRequest r → cleanRequest r [] →
    (let t := s.forwarded 9 r
     ((∃ n, (s.lane n).state ≠ .idle) → exec (.reloadBoot r) s = .next (t.replied 9 r .busy [])) ∧
     ((∀ n, (s.lane n).state = .idle) →
       exec (.reloadBoot r) s =
         .next
          { t with
            req := { t.req with bootRunning := some r.tag.value, owed := t.req.owed + 1 }
            boot := checkPass .reload
            bus := busAddressing.reverse ++ s.bus }))

/-! ## Emission -/

/-- R127: DSTOP# pauses ETX: a symbol that is being sent when it asserts is finished, no further symbol and no unit
begins until it deasserts. That a symbol is being sent whenever a unit is in progress and its next symbol is at hand is
the model's choice (log 10). At the level asserted already, the command leaves the state as it is (log 22), and so do
SYMBOL_SENT and UNIT_END with no symbol being sent. -/
def Obligations.DstopPausesEmission : Prop :=
  ∀ s : State,
    (s.dstop = false →
      exec .dstopAssert s =
        .next
          ((s.withDstop true).withEtx
            { s.etx with
              inFlight :=
                match s.etx.current with
                | none => false
                | some ⟨.transit _, _⟩ => decide (s.transit ≠ [])
                | some _ => true })) ∧
    (s.dstop = true → exec .dstopAssert s = .next s ∧ exec .emitUnitBegin s = .next s) ∧
    (s.dstop = true → s.etx.inFlight = false → exec .symbolSent s = .next s ∧ exec .unitEnd s = .next s) ∧
    exec .dstopDeassert s = .next ((s.withDstop false).withEtx { s.etx with inFlight := false })

/-- R119, R121 to R123, R126: at a boundary with no transit unit ready and nothing owed, ETX begins the candidate of the
highest class, a reply before the lanes and the lanes of a class round-robin from the one after its pointer, if the stack is
empty or its class is above the top entry's; otherwise it continues the top entry, or on an empty stack sends a FILL. The
unit's tag is sent as it begins (log 9; the record of the port is the model's, log 21). -/
def Obligations.EmissionChoosesHighestClass : Prop :=
  ∀ s : State, s.atBoundary → s.nothingOwed → s.transit.length < 3 →
    (∀ g rest, s.replies = g :: rest → s.offers .reply 2 → s.floor ≤ 2 →
      exec .emitUnitBegin s = .next (s.opens .reply 2 (headerBytes g.header))) ∧
    (∀ (cls : Nat) (j : Fin 4) (g : Segment),
      let n := s.pointer cls + 1 + j
      cls ≤ 1 → s.floor ≤ cls → s.offers (.lane n) cls → (s.lane n).store.head? = some g →
      (∀ src c, s.offers src c → c ≤ cls) → (∀ i < j, ¬s.offers (.lane (s.pointer cls + 1 + i)) cls) →
      exec .emitUnitBegin s =
        .next
          ((s.withEtx (if cls = 0 then { s.etx with rr0 := n } else { s.etx with rr1 := n })).opens (.lane n) cls
            (headerBytes g.header))) ∧
    ((∀ src c, s.offers src c → c < s.floor) →
      (s.etx.stack = [] →
        exec .emitUnitBegin s =
          .next
            ((s.withDtx (tagSymbol 7 s.partAddress :: s.dtx)).withEtx
              { s.etx with
                current := some ⟨.fill [tagSymbol 7 s.partAddress, dataSymbol 0, dataSymbol 0], 1⟩
                inFlight := false })) ∧
      (∀ top rest g, s.etx.stack = top :: rest → s.segmentOf top.source = some g →
        exec .emitUnitBegin s = .next (s.continues (unitKind top.resume) (unitAt s.partAddress g top.resume))))

/-- R125: with a transit unit ready, its tag and both length symbols at the head of the Transit FIFO, the kind not sent last
begins; a transit unit begins too if no own unit is ready. Its tag leaves the FIFO as it begins (log 9; the record of the
port is the model's, log 21). -/
def Obligations.TransitAndOwnUnitsAlternate : Prop :=
  ∀ (s : State) (tag hi lo : TransitSymbol) (rest : List TransitSymbol),
    s.atBoundary → s.nothingOwed → s.transit = tag :: hi :: lo :: rest →
    (let begun :=
      ((s.withTransit (hi :: lo :: rest)).withDtx (tag.sym :: s.dtx)).withEtx
        { s.etx with
          alternation := .transit
          current := if tag.endMark then none else some ⟨.transit (lengthOf hi.sym lo.sym), 1⟩
          inFlight := false }
     (s.etx.alternation = .own → exec .emitUnitBegin s = .next begun) ∧
     (s.etx.alternation = .transit → s.etx.stack = [] → (∀ src c, ¬s.offers src c) →
       exec .emitUnitBegin s = .next begun) ∧
     (s.etx.alternation = .transit →
       (s.etx.stack ≠ [] ∨ s.offers .reply 2 ∨ ∃ n c, c ≤ 1 ∧ s.offers (.lane n) c) →
       ∃ t, exec .emitUnitBegin (s.withTransit []) = .next t ∧
         exec .emitUnitBegin s = .next (t.withTransit s.transit)))

/-- R125, R129, R130: an owed abandoned close is the next unit, carrying the body bytes sent and disposition 1; with none
owed, a pending STARTED notice is, and until its end nothing else. The unit's tag is sent as it begins (log 9; the record of
the port is the model's, log 21). -/
def Obligations.OwedUnitsGoFirst : Prop :=
  ∀ s : State, s.atBoundary →
    (∀ top rest, s.etx.stack = top :: rest → s.etx.unwinding = true →
      exec .emitUnitBegin s =
        .next
          (s.continues kindSegClose (.abandoned (unitSymbols kindSegClose s.partAddress (beBytes 2 top.sent ++ [1]))))) ∧
    (∀ cause tag, s.etx.stack = [] → s.etx.started = some (cause, tag) →
      exec .emitUnitBegin s =
        .next
          ((s.withEtx { s.etx with started := none }).opens (.started cause tag) 2
            [2, 255, 3, tag, 255, 0, s.partAddress.setWidth 8])) ∧
    (∀ top rest cause tag, s.etx.stack = top :: rest → s.etx.unwinding = false → top.source = .started cause tag →
      exec .emitUnitBegin s =
        .next
          (s.continues (unitKind top.resume)
            (unitAt s.partAddress
              ⟨.reply tag 255 .done s.partAddress,
                [match cause with | .powerOn => 0 | .resetLine => 1 | .request => 2]⟩ top.resume)))

/-- R117, R118, R120, R123: an own unit or a FILL sends its next symbol; a chunk's data symbol raises the top entry's body
bytes sent; with its last symbol the unit ends: the resume point advances, or, after a SEG CLOSE, the entry is popped
and its segment removed from its source. The removal from a lane's store tests that lane's CLOSING wait again, and the removal
of a reply presents a held request again, in the same event (R19, R117, R141; log 6, log 7). That the last symbol ends the
unit is the model's reading (log 9), and the record of the port is its own (log 21). -/
def Obligations.OwnSymbolSent : Prop :=
  ∀ (s : State) (what : Sending) (k : Nat) (sym : Symbol),
    s.etx.current = some ⟨what, k⟩ → (∀ len, what ≠ .transit len) → (ownSymbols what)[k]? = some sym →
    (s.dstop = false ∨ s.etx.inFlight = true) →
    (k + 1 < (ownSymbols what).length →
      exec .symbolSent s =
        .next
          ((s.withDtx (sym :: s.dtx)).withEtx
            { s.etx with
              current := some ⟨what, k + 1⟩
              inFlight := false
              stack :=
                match what, s.etx.stack with
                | .chunk _ _, top :: rest => (if 3 ≤ k then { top with sent := top.sent + 1 } else top) :: rest
                | _, stack => stack })) ∧
    (k + 1 = (ownSymbols what).length →
      (∀ syms, what = .fill syms →
        exec .symbolSent s =
          .next ((s.withDtx (sym :: s.dtx)).withEtx { s.etx with current := none, inFlight := false })) ∧
      (∀ top rest g, s.etx.stack = top :: rest → s.segmentOf top.source = some g →
        (∀ syms, what = .segOpen syms →
          exec .symbolSent s =
            .next
              ((s.withDtx (sym :: s.dtx)).withEtx
                { s.etx with
                  current := none
                  inFlight := false
                  stack := { top with resume := if g.body = [] then .segClose else .chunk 0 } :: rest })) ∧
        (∀ n syms, what = .chunk n syms → 3 ≤ k →
          exec .symbolSent s =
            .next
              ((s.withDtx (sym :: s.dtx)).withEtx
                { s.etx with
                  current := none
                  inFlight := false
                  stack :=
                    { top with
                      sent := top.sent + 1
                      resume := if 256 * (n + 1) < g.body.length then .chunk (n + 1) else .segClose } :: rest }))) ∧
      (∀ top rest, s.etx.stack = top :: rest →
        let popped :=
          (s.withDtx (sym :: s.dtx)).withEtx
            { s.etx with
              current := none
              inFlight := false
              stack := rest
              unwinding := s.etx.unwinding && decide (rest ≠ []) }
        (∀ syms, what = .abandoned syms → exec .symbolSent s = .next popped) ∧
        (∀ syms, what = .segClose false syms → exec .symbolSent s = .next popped) ∧
        (∀ syms, what = .segClose true syms →
          (∀ n, top.source = .lane n →
            exec .symbolSent s =
              exec (.closingQueue n) (popped.setLane n { s.lane n with store := (s.lane n).store.tail })) ∧
          (top.source = .reply →
            (¬s.holdsRequest → exec .symbolSent s = .next (popped.withReplies s.replies.tail)) ∧
            (s.holdsRequest → exec .symbolSent s = exec .presentHeldUnit (popped.withReplies s.replies.tail))) ∧
          (∀ cause tag, top.source = .started cause tag → exec .symbolSent s = .next popped))))

/-- R125, R144: a transit unit sends the symbol at the head of the Transit FIFO, as received, and ends at its last symbol
or at an end mark; it waits for a symbol that has not arrived. That the last symbol ends the unit is the model's reading
(log 9), and the record of the port is its own (log 21). -/
def Obligations.TransitSymbolSent : Prop :=
  ∀ (s : State) (len k : Nat), s.etx.current = some ⟨.transit len, k⟩ → (s.dstop = false ∨ s.etx.inFlight = true) →
    (s.transit = [] → exec .symbolSent s = .next s) ∧
    (∀ y rest, s.transit = y :: rest →
      exec .symbolSent s =
        .next
          (((s.withTransit rest).withDtx (y.sym :: s.dtx)).withEtx
            { s.etx with
              current := if k + 1 = len + 3 ∨ y.endMark = true then none else some ⟨.transit len, k + 1⟩
              inFlight := false }))

/-- R120, R125, R127, R144: UNIT_END sends the rest of the current unit, symbol by symbol, and leaves a unit boundary: an own
unit's symbols, or a transit unit's up to its last symbol or an end mark. It waits where a symbol of a transit unit is
missing, and does nothing at a boundary (log 22). Under DSTOP# it does what the symbol being sent does, if that is the unit's
last, and otherwise nothing. That the last symbol ends the unit, and these waits, are the model's reading (log 9, log 10),
and the record of the port is its own (log 21). -/
def Obligations.UnitEndSendsTheRest : Prop :=
  ∀ s : State,
    (s.etx.current = none → exec .unitEnd s = .next s) ∧
    (s.dstop = false →
      (∀ what k, s.etx.current = some ⟨what, k⟩ → (∀ len, what ≠ .transit len) → k < (ownSymbols what).length →
        ∃ t, sendsSymbols ((ownSymbols what).length - k) s = some t ∧ exec .unitEnd s = .next t ∧
          t.etx.current = none ∧ t.dtx = ((ownSymbols what).drop k).reverse ++ s.dtx)) ∧
    (s.dstop = true → s.etx.inFlight = true →
      (∀ what k, s.etx.current = some ⟨what, k⟩ → (∀ len, what ≠ .transit len) →
        (k + 1 = (ownSymbols what).length → exec .unitEnd s = exec .symbolSent s) ∧
        (k + 1 < (ownSymbols what).length → exec .unitEnd s = .next s))) ∧
    (∀ len k, s.etx.current = some ⟨.transit len, k⟩ → k < len + 3 →
      ((∀ y ∈ s.transit, y.endMark = false) → s.transit.length < len + 3 - k → exec .unitEnd s = .next s) ∧
      (∀ sent last rest, s.transit = sent ++ last :: rest → (∀ y ∈ sent, y.endMark = false) →
        k + sent.length + 1 ≤ len + 3 → (last.endMark = true ∨ k + sent.length + 1 = len + 3) →
        (s.dstop = false →
          exec .unitEnd s =
            .next
              (((s.withTransit rest).withDtx (last.sym :: (sent.map TransitSymbol.sym).reverse ++ s.dtx)).withEtx
                { s.etx with current := none, inFlight := false })) ∧
        (s.dstop = true → s.etx.inFlight = true →
          (sent = [] → exec .unitEnd s = exec .symbolSent s) ∧ (sent ≠ [] → exec .unitEnd s = .next s))))

/-! ## Time -/

/-- The model's choice of log 4: a step on an empty queue is one cycle of the reference clock; the cycle that fills the
interval is a pulse, and nothing happens while RESET# is asserted or with prescale code 0. R15, R165: a prescaler pulse
raises the pulse count and turns the half-step phase, and the pulse that brings the count to the divisor is a tick; with
prescale code 0 neither comes (log 22). The two intervals between pulses that alternate are the ceiling and the floor of (c +
1) / 2 reference cycles, the longer one first after a restart (log 27). -/
def Obligations.ClockCyclesAndPulsesMakeTicks : Prop :=
  (∀ s : State, s.pending = [] →
    step s =
      .next
        (if s.resetLine = true ∨ s.tables.prescale = 0 then s
        else if s.time.cycles + 1 < pulseInterval s.tables.prescale s.time.phase then
          s.withTime { s.time with cycles := s.time.cycles + 1 }
        else s.pulse)) ∧
  (∀ s : State,
    (s.tables.prescale = 0 → exec .prescalerPulse s = .next s ∧ exec .tick s = .next s) ∧
    (s.tables.prescale ≠ 0 →
      (s.time.pulses + 1 < s.tables.divisor →
        exec .prescalerPulse s =
          .next
            (s.withTime
              { cycles := 0
                phase := if s.tables.prescale % 2 = 0 then !s.time.phase else s.time.phase
                pulses := s.time.pulses + 1 })) ∧
      (s.time.pulses + 1 = s.tables.divisor → exec .prescalerPulse s = exec .tick s))) ∧
  (∀ c : Nat, 1 ≤ c →
    pulseInterval c false = (c + 2) / 2 ∧ pulseInterval c (phaseAfter c 1 false) = (c + 1) / 2 ∧
      phaseAfter c 1 (phaseAfter c 1 false) = false)

/-- R15, R16, R165: a tick raises every running stall timer by one, none while USTOP# is asserted; the timers that it brings
to their limits expire, in lane order. That a tick may come at any pulse count, the pulses missing to the divisor having
turned the half-step phase, and that it is itself the expiry, is the model's reading (log 8); when the room for the closing
output is tested is that of log 6, and the order of two segments that a line's end builds is the free choice (log 11). -/
def Obligations.TickReachesStallTimers : Prop :=
  ∀ s : State, s.tables.prescale ≠ 0 →
    (let restarted : TimeBase :=
      { cycles := 0
        phase := phaseAfter s.tables.prescale (s.tables.divisor - s.time.pulses) s.time.phase
        pulses := 0 }
     let raised : State :=
      { s with
        time := restarted
        lanes :=
          s.lanes.map fun l =>
            if timerRuns l then { l with stallTimer := min (l.stallTimer + 1) (stallLimitOf l) } else l }
     let expires := fun n : Fin 4 =>
       timerRuns (s.lane n) = true ∧ stallLimitOf (s.lane n) ≤ (s.lane n).stallTimer + 1
     (s.ustop = true → exec .tick s = .next (s.withTime restarted)) ∧
     (s.ustop = false →
       exec .tick s = .next ([0, 1, 2, 3].foldl (fun t n => if expires n then t.stallEnds n else t) raised)))

/-! ## Boot loads -/

/-- R141, R157, R160, R161, R164: a boot memory that does not answer at the beginning of a pass ends the boot load with a stop
and the tables unchanged: at start-up the sequence ends, STARTED is pending and LRX takes its backlog; a RELOAD BOOT is
answered by NO_MEMORY, and a held unit is presented again in that event (log 7). Within a pass, and while no boot load runs,
nothing happens (log 22). Which address byte goes unacknowledged does not show (log 29); the record of the bus is the model's
(log 21). -/
def Obligations.SilentBootMemoryEndsLoad : Prop :=
  ∀ s : State,
    (s.boot.phase = .idle ∨ s.boot.position ≠ 0 → exec .bootMemoryNoAnswer s = .next s) ∧
    (s.boot.phase ≠ .idle → s.boot.position = 0 →
      (s.boot.purpose = some .startUp →
        exec .bootMemoryNoAnswer s =
          .next
            ({ s with
                startUp := false
                boot := {}
                bus := .stop :: s.bus
                etx := { s.etx with started := some (s.req.lastReset, 0) } } : State).drain) ∧
      (∀ tag, s.boot.purpose = some .reload → s.req.bootRunning = some tag →
        (let t : State :=
          { s with
            boot := {}
            bus := .stop :: s.bus
            replies := s.replies ++ [⟨.reply tag 9 .noMemory s.partAddress, []⟩]
            req := { s.req with bootRunning := none, owed := s.req.owed - 1 } }
         (s.lrx.hold = none → exec .bootMemoryNoAnswer s = .next t) ∧
         (s.lrx.hold ≠ none → exec .bootMemoryNoAnswer s = exec .presentHeldUnit t))))

/-- R141, R157, R160 to R164: an image byte that fails its test, in either pass, is not acknowledged and ends the boot load
with a stop and the tables unchanged: a RELOAD BOOT is answered by BAD_IMAGE and a held unit is presented again in that event
(log 7); at start-up the sequence ends, STARTED is pending and LRX takes its backlog. An idle Boot Loader reads nothing
(log 22). The byte at which a failing test ends the load is the model's reading (log 18); the record of the bus is its own
(log 21). -/
def Obligations.BadImageByteEndsLoad : Prop :=
  ∀ (s : State) (v : Byte),
    (s.boot.phase = .idle → exec (.bootByteRead v) s = .next s) ∧
    (s.boot.phase ≠ .idle → imageByteFails s.boot v →
      (s.boot.purpose = some .startUp →
        exec (.bootByteRead v) s =
          .next
            ({ s with
                startUp := false
                boot := {}
                bus := .stop :: .noAck :: s.bus
                etx := { s.etx with started := some (s.req.lastReset, 0) } } : State).drain) ∧
      (∀ tag, s.boot.purpose = some .reload → s.req.bootRunning = some tag →
        (let t : State :=
          { s with
            boot := {}
            bus := .stop :: .noAck :: s.bus
            replies := s.replies ++ [⟨.reply tag 9 .badImage s.partAddress, []⟩]
            req := { s.req with bootRunning := none, owed := s.req.owed - 1 } }
         (s.lrx.hold = none → exec (.bootByteRead v) s = .next t) ∧
         (s.lrx.hold ≠ none → exec (.bootByteRead v) s = exec .presentHeldUnit t))))

/-- R36, R141, R157, R161 to R164, R166: the mark's first byte is taken, and so is every value of a tone entry but its last:
it is acknowledged, and the position and the running sum advance; that an entry's bytes wait in a window is the model's (log
18). An image that passes every test, read byte by byte, leaves the tables as they were after the check pass, which ends with
a stop and is followed by the apply pass's own addressing, and is applied with the last byte of the apply pass: the setting,
the profile entries and the tone entries in image order; the counts of the Time Base restart, and a RELOAD BOOT is answered
by DONE, a held unit being presented again in that event (log 7). That the apply pass's whole addressing stands on the bus as
that pass begins is the model's choice (log 29), and the record of the bus is its own (log 21); phase false stands for the
longer half-step interval (log 27). -/
def Obligations.GoodBootImageApplied : Prop :=
  (∀ (s : State) (v : Byte), s.boot.phase ≠ .idle →
    (let b := s.boot
     let tones := 7 + 37 * b.profileCount
     let sum := tones + 257 * b.toneCount
     (b.position = 0 → v = 67 →
       exec (.bootByteRead v) s =
         .next { s with boot := { b with position := 1, sum := b.sum + 67 }, bus := .ack :: s.bus }) ∧
     (tones ≤ b.position → b.position < sum → 1 ≤ b.window.length → b.window.length ≤ 255 →
       exec (.bootByteRead v) s =
         .next
          { s with
            boot := { b with position := b.position + 1, sum := b.sum + v.setWidth 16, window := b.window ++ [v] }
            bus := .ack :: s.bus }))) ∧
  (∀ (s : State) (i : BootImage), i.good →
      (let bus := i.passBus ++ busAddressing.reverse ++ i.passBus ++ s.bus
       (∀ tag, s.boot = checkPass .reload → s.req.bootRunning = some tag →
         readsBytes i.bytes s =
           some
             { s with
               boot := { phase := .apply, purpose := some .reload }
               bus := busAddressing.reverse ++ i.passBus ++ s.bus } ∧
         (let t : State :=
           { s with
             boot := {}
             bus := bus
             tables := i.applied s.tables
             time := { cycles := 0, phase := false, pulses := 0 }
             replies := s.replies ++ [⟨.reply tag 9 .done s.partAddress, []⟩]
             req := { s.req with bootRunning := none, owed := s.req.owed - 1 } }
          (s.lrx.hold = none → readsBytes (i.bytes ++ i.bytes) s = some t) ∧
          ∃ t', exec .presentHeldUnit t = .next t' ∧ readsBytes (i.bytes ++ i.bytes) s = some t')) ∧
       (s.boot = checkPass .startUp →
         readsBytes (i.bytes ++ i.bytes) s =
           some
             ({ s with
                 startUp := false
                 boot := {}
                 bus := bus
                 tables := i.applied s.tables
                 time := { cycles := 0, phase := false, pulses := 0 }
                 etx := { s.etx with started := some (s.req.lastReset, 0) } } : State).drain)))

/-! ## What every step keeps -/

/-- R31, R53: every step keeps the Band Pool and the in-use counts balanced. -/
def Obligations.StepKeepsResourcesBalanced : Prop :=
  ∀ s t : State, ResourcesBalanced s → step s = .next t → ResourcesBalanced t

/-- R1, R9, R15, R60, R83, R93, R115, R118, R134, R142 to R144, R148, R153, R165: every step keeps within their bounds: the
receive FIFO, the hold slot, the request copy and the request in progress; the Transit FIFO; the output stores; the reply
queue with the replies owed; each lane's line counter, stall timer, rows held of a band and row codes held of a group; the
pulse count; the five error counters and the items completed. -/
def Obligations.StepKeepsBounds : Prop :=
  ∀ s t : State, WithinBounds s → step s = .next t → WithinBounds t

/-- R119, R121 to R123, R128: every step keeps the emission stack properly nested, and a unit in progress with its tag sent.
-/
def Obligations.StepKeepsStackNested : Prop :=
  ∀ s t : State, StackNested s → step s = .next t → StackNested t

/-- R24, R26, R35, R72 to R74, R162: every step keeps the valid profiles acceptable, the Time Base setting in range and
every carried threshold within its clamp. What a pass over the boot image has staged and has in its window (log 18) has passed
its tests. -/
def Obligations.StepKeepsTablesLegal : Prop :=
  ∀ s t : State, TablesLegal s → step s = .next t → TablesLegal t

/-! ## Reduction, thresholds, coding, results -/

/-- R41 to R43: the width rule gives the spans of a line: W_out spans, of which all but the last are whole and the last
covers the c pixels left, at least one and at most its span. -/
def Obligations.WidthRuleCoversLine : Prop :=
  ∀ wIn s e : Nat, 1 ≤ s → e ≤ 63 → 1 ≤ wIn →
    (let w := (widthRule wIn s e).1
     let c := (widthRule wIn s e).2
     1 ≤ w ∧ w ≤ wIn ∧ 1 ≤ c ∧ c ≤ spanOf s e (positionOf (w - 1)) ∧
      ((List.range (w - 1)).map fun x => spanOf s e (positionOf x)).sum + c = wIn)

/-- R40, R42, R44 to R50: the rows that a channel emits for an item's counted lines, the partial row included: how many, and
the value of every pixel, the mean of the samples in its span of the line and its row's lines, an exact half rounded up. -/
def Obligations.RowsOfItem : Prop :=
  ∀ (s e v wIn : Nat) (lines : List (List Byte)), 1 ≤ s → e ≤ 63 → 1 ≤ wIn → (∀ line ∈ lines, line.length = wIn) →
    (let emitted := rowsEmitted (channelFor s e v wIn) lines
     let k := 1 + v / 2
     (v % 2 = 0 → emitted.length = (lines.length + k - 1) / k) ∧
     (v % 2 = 1 →
       let u := lines.length % (2 * k + 1)
       emitted.length = 2 * (lines.length / (2 * k + 1)) + (if u = 0 then 0 else if u ≤ k + 1 then 1 else 2)) ∧
     emitted =
       (List.range emitted.length).map fun i =>
         (i, (List.range (widthRule wIn s e).1).map fun x => meanOf (samplesOf s e v wIn lines i x)))

/-- R54: the Band Pool grants the first of the heights 32, 16, 8 and 4, from the requested one down, that fits. -/
def Obligations.PoolGrantsFirstHeightThatFits : Prop :=
  ∀ (free w : Nat) (code : Fin 4),
    (let requested := 4 * 2 ^ code.val
     (∀ h ∈ [32, 16, 8, 4], h ≤ requested → h * w ≤ free →
       (∀ h' ∈ [32, 16, 8, 4], h < h' → h' ≤ requested → free < h' * w) → poolGrant free w requested = some h) ∧
     (free < 4 * w → poolGrant free w requested = none))

/-- R69, R70: the seek adds the weights 32, 16, 8, 4, 2 and 1 in turn, each if C at the trial is at most K, and so finds
the largest t in 0 to 63 with C(t) at most K. -/
def Obligations.SeekFindsLargestBin : Prop :=
  ∀ (hist : Vector Nat 64) (k : Nat),
    (let c := fun t => (hist.toList.take t).sum
     let trial := fun t w => if c (t + w) ≤ k then t + w else t
     seek hist k = trial (trial (trial (trial (trial (trial 0 32) 16) 8) 4) 2) 1 ∧
      seek hist k ≤ 63 ∧ c (seek hist k) ≤ k ∧ ∀ t, t ≤ 63 → c t ≤ k → t ≤ seek hist k)

/-- R76 to R78: a grey value below T_band is black; with the despeckle field 1 each finished bit is the majority of its bit
and the two neighbours in the unfiltered row, a missing neighbour being the bit itself; with 0 it is the bit. -/
def Obligations.DespeckleIsNeighbourMajority : Prop :=
  ∀ (r : Record) (tBand : Nat) (grey : List Byte) (x : Nat),
    (finishedRow r tBand grey).length = grey.length ∧
      (x < grey.length →
        (let bit := fun y => decide ((grey.getD y 0).toNat < tBand)
         let left := if x = 0 then bit x else bit (x - 1)
         let right := if x + 1 = grey.length then bit x else bit (x + 1)
         (r.despeckle = 0 → (finishedRow r tBand grey)[x]? = some (bit x)) ∧
         (r.despeckle = 1 →
           (finishedRow r tBand grey)[x]? = some (decide (2 ≤ left.toNat + (bit x).toNat + right.toNat)))))

/-- R85 to R87, R90: the body of a B segment, the codes of its rows end to end, is read back as exactly those rows, and no
row code is longer than its raw form. Each row has one code: B_WHITE if it is all white, else B_SAME if it equals the row
before it in the band, else the shorter of B_RUNS, the lengths of its runs from a white one on, and B_RAW, its bits eight to a
byte; B_RUNS where they are equal. -/
def Obligations.BandRowsReadBack : Prop :=
  ∀ (w : Nat) (rows : List (List Bool)), 1 ≤ w → w ≤ 2048 → (∀ row ∈ rows, row.length = w) →
    readBody w rows.length none (codeBRows none rows).flatten = some rows ∧
      (∀ code ∈ codeBRows none rows, 1 ≤ code.length ∧ code.length ≤ 1 + (w + 7) / 8) ∧
      (codeBRows none rows).length = rows.length ∧
      ∀ (i : Nat) (row : List Bool), rows[i]? = some row →
        ∃ runs : List Nat, runs ≠ [] ∧ (∀ len ∈ runs.tail, 1 ≤ len) ∧ rowOfRuns false runs = row ∧
          (let inRuns : List Byte := 3 :: runs.flatMap runLengthBytes
           let inBits : List Byte := 4 :: packedRow row
           (codeBRows none rows)[i]? =
             some
              (if ∀ bit ∈ row, bit = false then [1]
              else if 0 < i ∧ rows[i - 1]? = some row then [2]
              else if inRuns.length ≤ inBits.length then inRuns
              else inBits))

/-- R83, R84, R91 to R93: a grey row that the Row Coder takes: each value is replaced by its entry of the tone table and, at
depth 4, reduced to its high four bits, two to a byte, the missing one of an odd width 0; the packed row is coded G_SAME
after an equal row of its group and G_ROW otherwise; the fourth row of a group builds its G segment and empties the group. A
Row Coder whose group context is closed takes none. The closing work builds the rows held into the final G segment. That the
group's first row stands after its segment is built is the model's choice (log 30). -/
def Obligations.GreyRowsPackedIntoGroups : Prop :=
  ∀ (tone : Vector Byte 256) (n : Fin 4) (rowNo : Nat) (row : List Byte) (l : Lane),
    (let toned := row.map fun g => tone.toList.getD g.toNat 0
     let nibble := fun x => (toned.getD x 0).toNat / 16
     let packed :=
       if l.coder.gDepth = 4 then
         (List.range ((row.length + 1) / 2)).map fun i => BitVec.ofNat 8 (16 * nibble (2 * i) + nibble (2 * i + 1))
       else toned
     let code : List Byte :=
       if l.coder.group ≠ [] ∧ l.coder.prevPacked = some packed then [6] else 5 :: packed
     let first := if l.coder.group = [] then rowNo else l.coder.groupFirstRow
     let segment := fun (first : Nat) (group : List (List Byte)) =>
       (⟨.gGroup l.header.cls.val n l.header.item first group.length l.coder.gWidth l.coder.gDepth l.coder.gTable,
         group.flatten⟩ : Segment)
     (l.coder.groupOpen = false → takeGRow tone n rowNo row l = (l, none)) ∧
     (l.coder.groupOpen = true →
       (l.coder.group.length ≠ 3 →
         takeGRow tone n rowNo row l =
           ({ l with
              coder :=
                { l.coder with
                  group := l.coder.group ++ [code], groupFirstRow := first, prevPacked := some packed } }, none)) ∧
       (l.coder.group.length = 3 →
         takeGRow tone n rowNo row l =
           ({ l with coder := { l.coder with group := [], groupFirstRow := first, prevPacked := none } },
            some (segment first (l.coder.group ++ [code])))) ∧
       (l.coder.group ≠ [] →
         finishGroup n l =
           { l with
             coder :=
              { l.coder with
                groupOpen := false
                group := []
                prevPacked := none
                finalG := some (segment l.coder.groupFirstRow l.coder.group) } })))

/-- R62, R63, R67, R68, R71 to R74, R79, R80, R88, R90, R101: an active band store takes a row: appends it, adds each value g
to bin g div 4, records the number of the band's first row, and closes the band exactly when its rows reach the height in
use; an inactive one takes none. The close of a band finds its T_band, T_init in fixed mode, and in seek mode the blend of
T_prev with the clamped 4t, where t is the seek's with K = floor(N f / 256); its B segment's body is the codes of its
finished rows end to end; it adds the band's black pixels to the black count and the body's bytes to Z, clears the streak
marks of columns that are white in some row, raises the band count, and the clamped-band count where the clamp changed 4t,
empties the store and carries T_band to the next band. That the first row stands after the close is the model's choice (log
31). -/
def Obligations.BandTakesRowsAndCloses : Prop :=
  ∀ (n : Fin 4) (l : Lane),
    (∀ (rowNo : Nat) (row : List Byte),
      let taken : Lane := { l with band := rowTaken l.band rowNo row }
      (l.band.active = false → takeBRow n rowNo row l = (l, none)) ∧
      (l.band.active = true →
        (l.band.rows.length + 1 ≠ l.snap.h → takeBRow n rowNo row l = (taken, none)) ∧
        (l.band.rows.length + 1 = l.snap.h → takeBRow n rowNo row l = (closeBand taken, some (bandSegment n taken))))) ∧
    (let c := closeBand l
     let g := bandSegment n l
     let t := (bandContext l).tBand
     let r := snapRecord l.snap
     let rows := l.band.rows.map (finishedRow r t)
     let sought := 4 * seek l.band.histogram (l.band.rows.length * l.snap.wOutB * r.target.toNat / 256)
     let held := if sought < r.tMin.toNat then r.tMin.toNat else if r.tMax.toNat < sought then r.tMax.toNat else sought
     (r.mode = 0 → t = r.tInit.toNat ∧ c.quality.clamped = l.quality.clamped) ∧
      (r.mode = 1 →
        t = (held + l.band.tPrev + 1) / 2 ∧
          c.quality.clamped = l.quality.clamped + (if held = sought then 0 else 1)) ∧
      c.quality.blackCount = l.quality.blackCount + (rows.map fun row => row.count true).sum ∧
      c.quality.z = l.quality.z + g.body.length ∧
      (∀ x, (∀ row ∈ rows, x < row.length) → c.quality.streak[x]? =
        (l.quality.streak[x]?.map fun mark => mark && rows.all fun row => row.getD x true)) ∧
      c.quality.bands = l.quality.bands + 1 ∧ c.quality.dropped = l.quality.dropped ∧
      c.band =
        { active := l.band.active, rows := [], histogram := Vector.replicate 64 0, bandIndex := l.band.bandIndex + 1
          firstRow := l.band.firstRow, tPrev := t } ∧
      c.store = l.store ∧ g.body = (codeBRows none rows).flatten ∧
      g.header =
        .bBand l.header.cls.val n l.header.item l.band.bandIndex l.band.firstRow l.band.rows.length t l.snap.wOutB
          l.snap.h)

/-- R109: the disposition of an item. -/
def Obligations.DispositionFollowsFlags : Prop :=
  ∀ (reason : Reason) (f : ProcFlags) (q : QualityFlags),
    (let partialSet := f.superseded ∨ f.stalled ∨ f.aborted ∨ f.countMismatch ∨ f.lineCap ∨ f.outputLost ∨ f.bDropped
     let qualitySet := q.short ∨ q.long ∨ q.light ∨ q.dark ∨ q.small ∨ q.large ∨ q.streak
     (reason ≠ .none → dispositionOf reason f q = .reject) ∧
      (reason = .none → partialSet → dispositionOf reason f q = .partialItem) ∧
      (reason = .none → ¬partialSet → qualitySet → dispositionOf reason f q = .review) ∧
      (reason = .none → ¬partialSet → ¬qualitySet → dispositionOf reason f q = .accept))

/-- R102 to R107, R110, R111, R170: the result that a lane composes: its measures L, D, Z and streak count; the quality
flags, evaluated for an item from OPEN that is not ABORTED, those of the picture only with B active, STREAK only with a
limit; and the 43 bytes of the record behind its header. -/
def Obligations.ResultRecordComposed : Prop :=
  ∀ (n : Fin 4) (l : Lane),
    (let r := snapRecord l.snap
     let q := l.quality
     let f := l.flags
     let d := if l.b.rowIndex = 0 then 0 else 1000 * q.blackCount / (l.b.rowIndex * l.snap.wOutB)
     let streaks := if q.bands = 0 then 0 else q.streak.count true
     let lines := l.reason = .none ∧ f.aborted = false
     let picture := lines ∧ l.snap.bActive = true
     let flags : QualityFlags :=
       { short := decide (lines ∧ l.lineCount < r.lMin.toNat)
         long := decide (lines ∧ r.lMax.toNat < l.lineCount)
         light := decide (picture ∧ d < r.dMin.toNat)
         dark := decide (picture ∧ r.dMax.toNat < d)
         small := decide (picture ∧ q.z < r.zMin.toNat)
         large := decide (picture ∧ r.zMax.toNat < q.z)
         streak := decide (picture ∧ r.streakLimit ≠ 0 ∧ r.streakLimit.toNat ≤ streaks) }
     let processing :=
       f.superseded.toNat + 2 * f.stalled.toNat + 4 * f.aborted.toNat + 8 * f.countMismatch.toNat + 16 * f.lineCap.toNat
         + 32 * f.outputLost.toNat + 64 * f.bDropped.toNat + 128 * f.bandReduced.toNat + 256 * f.shortLines.toNat
         + 512 * f.longLines.toNat + 1024 * f.pixelParity.toNat
     let quality :=
       flags.short.toNat + 2 * flags.long.toNat + 4 * flags.light.toNat + 8 * flags.dark.toNat + 16 * flags.small.toNat
         + 32 * flags.large.toNat + 64 * flags.streak.toNat
     let body : List Byte :=
       [(match dispositionOf l.reason f flags with
           | .accept => (0 : Byte) | .review => 1 | .partialItem => 2 | .reject => 3),
         (match l.reason with | .none => (0 : Byte) | .badHeader => 1 | .noProfile => 2)]
       ++ beBytes 2 processing ++ [BitVec.ofNat 8 quality, l.header.profile, l.header.side, BitVec.ofNat 8 l.header.cls.val]
       ++ beBytes 2 l.lineCount ++ beBytes 2 l.header.wIn.toNat ++ beBytes 2 l.snap.wOutB ++ beBytes 2 l.snap.wOutG
       ++ [BitVec.ofNat 8 l.snap.h] ++ beBytes 2 l.b.rowIndex ++ beBytes 2 l.g.rowIndex ++ beBytes 2 q.bands
       ++ beBytes 2 q.clamped ++ beBytes 2 d ++ beBytes 4 q.z ++ beBytes 2 streaks ++ beBytes 2 l.shortLines
       ++ beBytes 2 l.longLines ++ beBytes 4 l.parityPixels ++ beBytes 2 q.dropped
     body.length = 43 ∧
      compose n l =
        { l with quality := { q with composed := some ⟨.result l.header.cls.val n l.header.item, body⟩ } })

/-- R24, R171: the profile record and its 36 bytes give each other back. -/
def Obligations.RecordBytesRoundTrip : Prop :=
  (∀ r : Record, (recordBytes r).length = 36 ∧ recordOfBytes (recordBytes r) = r) ∧
    ∀ bytes : List Byte, bytes.length = 36 → recordBytes (recordOfBytes bytes) = bytes
end

