-- ==== Sys2Proof/Laws/State.lean ====
section
/-! SUPPORT. One lemma per field per update of State: what each update leaves and what it sets. -/

namespace Sys2Proof.Machine

variable (s : State) (n : Fin 4) (l : Lane)

/-! ### withLrx -/
@[simp] theorem State.withLrx_pending (v : Lrx) : (s.withLrx v).pending = s.pending := rfl
@[simp] theorem State.withLrx_resetLine (v : Lrx) : (s.withLrx v).resetLine = s.resetLine := rfl
@[simp] theorem State.withLrx_dstop (v : Lrx) : (s.withLrx v).dstop = s.dstop := rfl
@[simp] theorem State.withLrx_startUp (v : Lrx) : (s.withLrx v).startUp = s.startUp := rfl
@[simp] theorem State.withLrx_partAddress (v : Lrx) : (s.withLrx v).partAddress = s.partAddress := rfl
@[simp] theorem State.withLrx_lrx (v : Lrx) : (s.withLrx v).lrx = v := rfl
@[simp] theorem State.withLrx_transit (v : Lrx) : (s.withLrx v).transit = s.transit := rfl
@[simp] theorem State.withLrx_lanes (v : Lrx) : (s.withLrx v).lanes = s.lanes := rfl
@[simp] theorem State.withLrx_pool (v : Lrx) : (s.withLrx v).pool = s.pool := rfl
@[simp] theorem State.withLrx_replies (v : Lrx) : (s.withLrx v).replies = s.replies := rfl
@[simp] theorem State.withLrx_etx (v : Lrx) : (s.withLrx v).etx = s.etx := rfl
@[simp] theorem State.withLrx_tables (v : Lrx) : (s.withLrx v).tables = s.tables := rfl
@[simp] theorem State.withLrx_req (v : Lrx) : (s.withLrx v).req = s.req := rfl
@[simp] theorem State.withLrx_boot (v : Lrx) : (s.withLrx v).boot = s.boot := rfl
@[simp] theorem State.withLrx_time (v : Lrx) : (s.withLrx v).time = s.time := rfl
@[simp] theorem State.withLrx_dtx (v : Lrx) : (s.withLrx v).dtx = s.dtx := rfl
@[simp] theorem State.withLrx_bus (v : Lrx) : (s.withLrx v).bus = s.bus := rfl
@[simp] theorem State.withLrx_orderIndex (v : Lrx) : (s.withLrx v).orderIndex = s.orderIndex := rfl
@[simp] theorem State.withLrx_lane (v : Lrx) : (s.withLrx v).lane n = s.lane n := rfl
@[simp] theorem State.withLrx_self : s.withLrx s.lrx = s := rfl
@[simp] theorem State.withLrx_withLrx (v w : Lrx) : (s.withLrx v).withLrx w = s.withLrx w := rfl

/-! ### withTransit -/
@[simp] theorem State.withTransit_pending (v : List TransitSymbol) : (s.withTransit v).pending = s.pending := rfl
@[simp] theorem State.withTransit_resetLine (v : List TransitSymbol) : (s.withTransit v).resetLine = s.resetLine := rfl
@[simp] theorem State.withTransit_dstop (v : List TransitSymbol) : (s.withTransit v).dstop = s.dstop := rfl
@[simp] theorem State.withTransit_startUp (v : List TransitSymbol) : (s.withTransit v).startUp = s.startUp := rfl
@[simp] theorem State.withTransit_partAddress (v : List TransitSymbol) : (s.withTransit v).partAddress = s.partAddress := rfl
@[simp] theorem State.withTransit_lrx (v : List TransitSymbol) : (s.withTransit v).lrx = s.lrx := rfl
@[simp] theorem State.withTransit_transit (v : List TransitSymbol) : (s.withTransit v).transit = v := rfl
@[simp] theorem State.withTransit_lanes (v : List TransitSymbol) : (s.withTransit v).lanes = s.lanes := rfl
@[simp] theorem State.withTransit_pool (v : List TransitSymbol) : (s.withTransit v).pool = s.pool := rfl
@[simp] theorem State.withTransit_replies (v : List TransitSymbol) : (s.withTransit v).replies = s.replies := rfl
@[simp] theorem State.withTransit_etx (v : List TransitSymbol) : (s.withTransit v).etx = s.etx := rfl
@[simp] theorem State.withTransit_tables (v : List TransitSymbol) : (s.withTransit v).tables = s.tables := rfl
@[simp] theorem State.withTransit_req (v : List TransitSymbol) : (s.withTransit v).req = s.req := rfl
@[simp] theorem State.withTransit_boot (v : List TransitSymbol) : (s.withTransit v).boot = s.boot := rfl
@[simp] theorem State.withTransit_time (v : List TransitSymbol) : (s.withTransit v).time = s.time := rfl
@[simp] theorem State.withTransit_dtx (v : List TransitSymbol) : (s.withTransit v).dtx = s.dtx := rfl
@[simp] theorem State.withTransit_bus (v : List TransitSymbol) : (s.withTransit v).bus = s.bus := rfl
@[simp] theorem State.withTransit_orderIndex (v : List TransitSymbol) : (s.withTransit v).orderIndex = s.orderIndex := rfl
@[simp] theorem State.withTransit_lane (v : List TransitSymbol) : (s.withTransit v).lane n = s.lane n := rfl
@[simp] theorem State.withTransit_self : s.withTransit s.transit = s := rfl
@[simp] theorem State.withTransit_withTransit (v w : List TransitSymbol) : (s.withTransit v).withTransit w = s.withTransit w := rfl

/-! ### withPool -/
@[simp] theorem State.withPool_pending (v : Nat) : (s.withPool v).pending = s.pending := rfl
@[simp] theorem State.withPool_resetLine (v : Nat) : (s.withPool v).resetLine = s.resetLine := rfl
@[simp] theorem State.withPool_dstop (v : Nat) : (s.withPool v).dstop = s.dstop := rfl
@[simp] theorem State.withPool_startUp (v : Nat) : (s.withPool v).startUp = s.startUp := rfl
@[simp] theorem State.withPool_partAddress (v : Nat) : (s.withPool v).partAddress = s.partAddress := rfl
@[simp] theorem State.withPool_lrx (v : Nat) : (s.withPool v).lrx = s.lrx := rfl
@[simp] theorem State.withPool_transit (v : Nat) : (s.withPool v).transit = s.transit := rfl
@[simp] theorem State.withPool_lanes (v : Nat) : (s.withPool v).lanes = s.lanes := rfl
@[simp] theorem State.withPool_pool (v : Nat) : (s.withPool v).pool = v := rfl
@[simp] theorem State.withPool_replies (v : Nat) : (s.withPool v).replies = s.replies := rfl
@[simp] theorem State.withPool_etx (v : Nat) : (s.withPool v).etx = s.etx := rfl
@[simp] theorem State.withPool_tables (v : Nat) : (s.withPool v).tables = s.tables := rfl
@[simp] theorem State.withPool_req (v : Nat) : (s.withPool v).req = s.req := rfl
@[simp] theorem State.withPool_boot (v : Nat) : (s.withPool v).boot = s.boot := rfl
@[simp] theorem State.withPool_time (v : Nat) : (s.withPool v).time = s.time := rfl
@[simp] theorem State.withPool_dtx (v : Nat) : (s.withPool v).dtx = s.dtx := rfl
@[simp] theorem State.withPool_bus (v : Nat) : (s.withPool v).bus = s.bus := rfl
@[simp] theorem State.withPool_orderIndex (v : Nat) : (s.withPool v).orderIndex = s.orderIndex := rfl
@[simp] theorem State.withPool_lane (v : Nat) : (s.withPool v).lane n = s.lane n := rfl
@[simp] theorem State.withPool_self : s.withPool s.pool = s := rfl
@[simp] theorem State.withPool_withPool (v w : Nat) : (s.withPool v).withPool w = s.withPool w := rfl

/-! ### withReplies -/
@[simp] theorem State.withReplies_pending (v : List Segment) : (s.withReplies v).pending = s.pending := rfl
@[simp] theorem State.withReplies_resetLine (v : List Segment) : (s.withReplies v).resetLine = s.resetLine := rfl
@[simp] theorem State.withReplies_dstop (v : List Segment) : (s.withReplies v).dstop = s.dstop := rfl
@[simp] theorem State.withReplies_startUp (v : List Segment) : (s.withReplies v).startUp = s.startUp := rfl
@[simp] theorem State.withReplies_partAddress (v : List Segment) : (s.withReplies v).partAddress = s.partAddress := rfl
@[simp] theorem State.withReplies_lrx (v : List Segment) : (s.withReplies v).lrx = s.lrx := rfl
@[simp] theorem State.withReplies_transit (v : List Segment) : (s.withReplies v).transit = s.transit := rfl
@[simp] theorem State.withReplies_lanes (v : List Segment) : (s.withReplies v).lanes = s.lanes := rfl
@[simp] theorem State.withReplies_pool (v : List Segment) : (s.withReplies v).pool = s.pool := rfl
@[simp] theorem State.withReplies_replies (v : List Segment) : (s.withReplies v).replies = v := rfl
@[simp] theorem State.withReplies_etx (v : List Segment) : (s.withReplies v).etx = s.etx := rfl
@[simp] theorem State.withReplies_tables (v : List Segment) : (s.withReplies v).tables = s.tables := rfl
@[simp] theorem State.withReplies_req (v : List Segment) : (s.withReplies v).req = s.req := rfl
@[simp] theorem State.withReplies_boot (v : List Segment) : (s.withReplies v).boot = s.boot := rfl
@[simp] theorem State.withReplies_time (v : List Segment) : (s.withReplies v).time = s.time := rfl
@[simp] theorem State.withReplies_dtx (v : List Segment) : (s.withReplies v).dtx = s.dtx := rfl
@[simp] theorem State.withReplies_bus (v : List Segment) : (s.withReplies v).bus = s.bus := rfl
@[simp] theorem State.withReplies_orderIndex (v : List Segment) : (s.withReplies v).orderIndex = s.orderIndex := rfl
@[simp] theorem State.withReplies_lane (v : List Segment) : (s.withReplies v).lane n = s.lane n := rfl
@[simp] theorem State.withReplies_self : s.withReplies s.replies = s := rfl
@[simp] theorem State.withReplies_withReplies (v w : List Segment) : (s.withReplies v).withReplies w = s.withReplies w := rfl

/-! ### withEtx -/
@[simp] theorem State.withEtx_pending (v : Etx) : (s.withEtx v).pending = s.pending := rfl
@[simp] theorem State.withEtx_resetLine (v : Etx) : (s.withEtx v).resetLine = s.resetLine := rfl
@[simp] theorem State.withEtx_dstop (v : Etx) : (s.withEtx v).dstop = s.dstop := rfl
@[simp] theorem State.withEtx_startUp (v : Etx) : (s.withEtx v).startUp = s.startUp := rfl
@[simp] theorem State.withEtx_partAddress (v : Etx) : (s.withEtx v).partAddress = s.partAddress := rfl
@[simp] theorem State.withEtx_lrx (v : Etx) : (s.withEtx v).lrx = s.lrx := rfl
@[simp] theorem State.withEtx_transit (v : Etx) : (s.withEtx v).transit = s.transit := rfl
@[simp] theorem State.withEtx_lanes (v : Etx) : (s.withEtx v).lanes = s.lanes := rfl
@[simp] theorem State.withEtx_pool (v : Etx) : (s.withEtx v).pool = s.pool := rfl
@[simp] theorem State.withEtx_replies (v : Etx) : (s.withEtx v).replies = s.replies := rfl
@[simp] theorem State.withEtx_etx (v : Etx) : (s.withEtx v).etx = v := rfl
@[simp] theorem State.withEtx_tables (v : Etx) : (s.withEtx v).tables = s.tables := rfl
@[simp] theorem State.withEtx_req (v : Etx) : (s.withEtx v).req = s.req := rfl
@[simp] theorem State.withEtx_boot (v : Etx) : (s.withEtx v).boot = s.boot := rfl
@[simp] theorem State.withEtx_time (v : Etx) : (s.withEtx v).time = s.time := rfl
@[simp] theorem State.withEtx_dtx (v : Etx) : (s.withEtx v).dtx = s.dtx := rfl
@[simp] theorem State.withEtx_bus (v : Etx) : (s.withEtx v).bus = s.bus := rfl
@[simp] theorem State.withEtx_orderIndex (v : Etx) : (s.withEtx v).orderIndex = s.orderIndex := rfl
@[simp] theorem State.withEtx_lane (v : Etx) : (s.withEtx v).lane n = s.lane n := rfl
@[simp] theorem State.withEtx_self : s.withEtx s.etx = s := rfl
@[simp] theorem State.withEtx_withEtx (v w : Etx) : (s.withEtx v).withEtx w = s.withEtx w := rfl

/-! ### withTables -/
@[simp] theorem State.withTables_pending (v : TableStore) : (s.withTables v).pending = s.pending := rfl
@[simp] theorem State.withTables_resetLine (v : TableStore) : (s.withTables v).resetLine = s.resetLine := rfl
@[simp] theorem State.withTables_dstop (v : TableStore) : (s.withTables v).dstop = s.dstop := rfl
@[simp] theorem State.withTables_startUp (v : TableStore) : (s.withTables v).startUp = s.startUp := rfl
@[simp] theorem State.withTables_partAddress (v : TableStore) : (s.withTables v).partAddress = s.partAddress := rfl
@[simp] theorem State.withTables_lrx (v : TableStore) : (s.withTables v).lrx = s.lrx := rfl
@[simp] theorem State.withTables_transit (v : TableStore) : (s.withTables v).transit = s.transit := rfl
@[simp] theorem State.withTables_lanes (v : TableStore) : (s.withTables v).lanes = s.lanes := rfl
@[simp] theorem State.withTables_pool (v : TableStore) : (s.withTables v).pool = s.pool := rfl
@[simp] theorem State.withTables_replies (v : TableStore) : (s.withTables v).replies = s.replies := rfl
@[simp] theorem State.withTables_etx (v : TableStore) : (s.withTables v).etx = s.etx := rfl
@[simp] theorem State.withTables_tables (v : TableStore) : (s.withTables v).tables = v := rfl
@[simp] theorem State.withTables_req (v : TableStore) : (s.withTables v).req = s.req := rfl
@[simp] theorem State.withTables_boot (v : TableStore) : (s.withTables v).boot = s.boot := rfl
@[simp] theorem State.withTables_time (v : TableStore) : (s.withTables v).time = s.time := rfl
@[simp] theorem State.withTables_dtx (v : TableStore) : (s.withTables v).dtx = s.dtx := rfl
@[simp] theorem State.withTables_bus (v : TableStore) : (s.withTables v).bus = s.bus := rfl
@[simp] theorem State.withTables_orderIndex (v : TableStore) : (s.withTables v).orderIndex = s.orderIndex := rfl
@[simp] theorem State.withTables_lane (v : TableStore) : (s.withTables v).lane n = s.lane n := rfl
@[simp] theorem State.withTables_self : s.withTables s.tables = s := rfl
@[simp] theorem State.withTables_withTables (v w : TableStore) : (s.withTables v).withTables w = s.withTables w := rfl

/-! ### withReq -/
@[simp] theorem State.withReq_pending (v : RequestUnit) : (s.withReq v).pending = s.pending := rfl
@[simp] theorem State.withReq_resetLine (v : RequestUnit) : (s.withReq v).resetLine = s.resetLine := rfl
@[simp] theorem State.withReq_dstop (v : RequestUnit) : (s.withReq v).dstop = s.dstop := rfl
@[simp] theorem State.withReq_startUp (v : RequestUnit) : (s.withReq v).startUp = s.startUp := rfl
@[simp] theorem State.withReq_partAddress (v : RequestUnit) : (s.withReq v).partAddress = s.partAddress := rfl
@[simp] theorem State.withReq_lrx (v : RequestUnit) : (s.withReq v).lrx = s.lrx := rfl
@[simp] theorem State.withReq_transit (v : RequestUnit) : (s.withReq v).transit = s.transit := rfl
@[simp] theorem State.withReq_lanes (v : RequestUnit) : (s.withReq v).lanes = s.lanes := rfl
@[simp] theorem State.withReq_pool (v : RequestUnit) : (s.withReq v).pool = s.pool := rfl
@[simp] theorem State.withReq_replies (v : RequestUnit) : (s.withReq v).replies = s.replies := rfl
@[simp] theorem State.withReq_etx (v : RequestUnit) : (s.withReq v).etx = s.etx := rfl
@[simp] theorem State.withReq_tables (v : RequestUnit) : (s.withReq v).tables = s.tables := rfl
@[simp] theorem State.withReq_req (v : RequestUnit) : (s.withReq v).req = v := rfl
@[simp] theorem State.withReq_boot (v : RequestUnit) : (s.withReq v).boot = s.boot := rfl
@[simp] theorem State.withReq_time (v : RequestUnit) : (s.withReq v).time = s.time := rfl
@[simp] theorem State.withReq_dtx (v : RequestUnit) : (s.withReq v).dtx = s.dtx := rfl
@[simp] theorem State.withReq_bus (v : RequestUnit) : (s.withReq v).bus = s.bus := rfl
@[simp] theorem State.withReq_orderIndex (v : RequestUnit) : (s.withReq v).orderIndex = s.orderIndex := rfl
@[simp] theorem State.withReq_lane (v : RequestUnit) : (s.withReq v).lane n = s.lane n := rfl
@[simp] theorem State.withReq_self : s.withReq s.req = s := rfl
@[simp] theorem State.withReq_withReq (v w : RequestUnit) : (s.withReq v).withReq w = s.withReq w := rfl

/-! ### withBoot -/
@[simp] theorem State.withBoot_pending (v : BootLoader) : (s.withBoot v).pending = s.pending := rfl
@[simp] theorem State.withBoot_resetLine (v : BootLoader) : (s.withBoot v).resetLine = s.resetLine := rfl
@[simp] theorem State.withBoot_dstop (v : BootLoader) : (s.withBoot v).dstop = s.dstop := rfl
@[simp] theorem State.withBoot_startUp (v : BootLoader) : (s.withBoot v).startUp = s.startUp := rfl
@[simp] theorem State.withBoot_partAddress (v : BootLoader) : (s.withBoot v).partAddress = s.partAddress := rfl
@[simp] theorem State.withBoot_lrx (v : BootLoader) : (s.withBoot v).lrx = s.lrx := rfl
@[simp] theorem State.withBoot_transit (v : BootLoader) : (s.withBoot v).transit = s.transit := rfl
@[simp] theorem State.withBoot_lanes (v : BootLoader) : (s.withBoot v).lanes = s.lanes := rfl
@[simp] theorem State.withBoot_pool (v : BootLoader) : (s.withBoot v).pool = s.pool := rfl
@[simp] theorem State.withBoot_replies (v : BootLoader) : (s.withBoot v).replies = s.replies := rfl
@[simp] theorem State.withBoot_etx (v : BootLoader) : (s.withBoot v).etx = s.etx := rfl
@[simp] theorem State.withBoot_tables (v : BootLoader) : (s.withBoot v).tables = s.tables := rfl
@[simp] theorem State.withBoot_req (v : BootLoader) : (s.withBoot v).req = s.req := rfl
@[simp] theorem State.withBoot_boot (v : BootLoader) : (s.withBoot v).boot = v := rfl
@[simp] theorem State.withBoot_time (v : BootLoader) : (s.withBoot v).time = s.time := rfl
@[simp] theorem State.withBoot_dtx (v : BootLoader) : (s.withBoot v).dtx = s.dtx := rfl
@[simp] theorem State.withBoot_bus (v : BootLoader) : (s.withBoot v).bus = s.bus := rfl
@[simp] theorem State.withBoot_orderIndex (v : BootLoader) : (s.withBoot v).orderIndex = s.orderIndex := rfl
@[simp] theorem State.withBoot_lane (v : BootLoader) : (s.withBoot v).lane n = s.lane n := rfl
@[simp] theorem State.withBoot_self : s.withBoot s.boot = s := rfl
@[simp] theorem State.withBoot_withBoot (v w : BootLoader) : (s.withBoot v).withBoot w = s.withBoot w := rfl

/-! ### withTime -/
@[simp] theorem State.withTime_pending (v : TimeBase) : (s.withTime v).pending = s.pending := rfl
@[simp] theorem State.withTime_resetLine (v : TimeBase) : (s.withTime v).resetLine = s.resetLine := rfl
@[simp] theorem State.withTime_dstop (v : TimeBase) : (s.withTime v).dstop = s.dstop := rfl
@[simp] theorem State.withTime_startUp (v : TimeBase) : (s.withTime v).startUp = s.startUp := rfl
@[simp] theorem State.withTime_partAddress (v : TimeBase) : (s.withTime v).partAddress = s.partAddress := rfl
@[simp] theorem State.withTime_lrx (v : TimeBase) : (s.withTime v).lrx = s.lrx := rfl
@[simp] theorem State.withTime_transit (v : TimeBase) : (s.withTime v).transit = s.transit := rfl
@[simp] theorem State.withTime_lanes (v : TimeBase) : (s.withTime v).lanes = s.lanes := rfl
@[simp] theorem State.withTime_pool (v : TimeBase) : (s.withTime v).pool = s.pool := rfl
@[simp] theorem State.withTime_replies (v : TimeBase) : (s.withTime v).replies = s.replies := rfl
@[simp] theorem State.withTime_etx (v : TimeBase) : (s.withTime v).etx = s.etx := rfl
@[simp] theorem State.withTime_tables (v : TimeBase) : (s.withTime v).tables = s.tables := rfl
@[simp] theorem State.withTime_req (v : TimeBase) : (s.withTime v).req = s.req := rfl
@[simp] theorem State.withTime_boot (v : TimeBase) : (s.withTime v).boot = s.boot := rfl
@[simp] theorem State.withTime_time (v : TimeBase) : (s.withTime v).time = v := rfl
@[simp] theorem State.withTime_dtx (v : TimeBase) : (s.withTime v).dtx = s.dtx := rfl
@[simp] theorem State.withTime_bus (v : TimeBase) : (s.withTime v).bus = s.bus := rfl
@[simp] theorem State.withTime_orderIndex (v : TimeBase) : (s.withTime v).orderIndex = s.orderIndex := rfl
@[simp] theorem State.withTime_lane (v : TimeBase) : (s.withTime v).lane n = s.lane n := rfl
@[simp] theorem State.withTime_self : s.withTime s.time = s := rfl
@[simp] theorem State.withTime_withTime (v w : TimeBase) : (s.withTime v).withTime w = s.withTime w := rfl

/-! ### withDtx -/
@[simp] theorem State.withDtx_pending (v : List Symbol) : (s.withDtx v).pending = s.pending := rfl
@[simp] theorem State.withDtx_resetLine (v : List Symbol) : (s.withDtx v).resetLine = s.resetLine := rfl
@[simp] theorem State.withDtx_dstop (v : List Symbol) : (s.withDtx v).dstop = s.dstop := rfl
@[simp] theorem State.withDtx_startUp (v : List Symbol) : (s.withDtx v).startUp = s.startUp := rfl
@[simp] theorem State.withDtx_partAddress (v : List Symbol) : (s.withDtx v).partAddress = s.partAddress := rfl
@[simp] theorem State.withDtx_lrx (v : List Symbol) : (s.withDtx v).lrx = s.lrx := rfl
@[simp] theorem State.withDtx_transit (v : List Symbol) : (s.withDtx v).transit = s.transit := rfl
@[simp] theorem State.withDtx_lanes (v : List Symbol) : (s.withDtx v).lanes = s.lanes := rfl
@[simp] theorem State.withDtx_pool (v : List Symbol) : (s.withDtx v).pool = s.pool := rfl
@[simp] theorem State.withDtx_replies (v : List Symbol) : (s.withDtx v).replies = s.replies := rfl
@[simp] theorem State.withDtx_etx (v : List Symbol) : (s.withDtx v).etx = s.etx := rfl
@[simp] theorem State.withDtx_tables (v : List Symbol) : (s.withDtx v).tables = s.tables := rfl
@[simp] theorem State.withDtx_req (v : List Symbol) : (s.withDtx v).req = s.req := rfl
@[simp] theorem State.withDtx_boot (v : List Symbol) : (s.withDtx v).boot = s.boot := rfl
@[simp] theorem State.withDtx_time (v : List Symbol) : (s.withDtx v).time = s.time := rfl
@[simp] theorem State.withDtx_dtx (v : List Symbol) : (s.withDtx v).dtx = v := rfl
@[simp] theorem State.withDtx_bus (v : List Symbol) : (s.withDtx v).bus = s.bus := rfl
@[simp] theorem State.withDtx_orderIndex (v : List Symbol) : (s.withDtx v).orderIndex = s.orderIndex := rfl
@[simp] theorem State.withDtx_lane (v : List Symbol) : (s.withDtx v).lane n = s.lane n := rfl
@[simp] theorem State.withDtx_self : s.withDtx s.dtx = s := rfl
@[simp] theorem State.withDtx_withDtx (v w : List Symbol) : (s.withDtx v).withDtx w = s.withDtx w := rfl

/-! ### withBus -/
@[simp] theorem State.withBus_pending (v : List BusEvent) : (s.withBus v).pending = s.pending := rfl
@[simp] theorem State.withBus_resetLine (v : List BusEvent) : (s.withBus v).resetLine = s.resetLine := rfl
@[simp] theorem State.withBus_dstop (v : List BusEvent) : (s.withBus v).dstop = s.dstop := rfl
@[simp] theorem State.withBus_startUp (v : List BusEvent) : (s.withBus v).startUp = s.startUp := rfl
@[simp] theorem State.withBus_partAddress (v : List BusEvent) : (s.withBus v).partAddress = s.partAddress := rfl
@[simp] theorem State.withBus_lrx (v : List BusEvent) : (s.withBus v).lrx = s.lrx := rfl
@[simp] theorem State.withBus_transit (v : List BusEvent) : (s.withBus v).transit = s.transit := rfl
@[simp] theorem State.withBus_lanes (v : List BusEvent) : (s.withBus v).lanes = s.lanes := rfl
@[simp] theorem State.withBus_pool (v : List BusEvent) : (s.withBus v).pool = s.pool := rfl
@[simp] theorem State.withBus_replies (v : List BusEvent) : (s.withBus v).replies = s.replies := rfl
@[simp] theorem State.withBus_etx (v : List BusEvent) : (s.withBus v).etx = s.etx := rfl
@[simp] theorem State.withBus_tables (v : List BusEvent) : (s.withBus v).tables = s.tables := rfl
@[simp] theorem State.withBus_req (v : List BusEvent) : (s.withBus v).req = s.req := rfl
@[simp] theorem State.withBus_boot (v : List BusEvent) : (s.withBus v).boot = s.boot := rfl
@[simp] theorem State.withBus_time (v : List BusEvent) : (s.withBus v).time = s.time := rfl
@[simp] theorem State.withBus_dtx (v : List BusEvent) : (s.withBus v).dtx = s.dtx := rfl
@[simp] theorem State.withBus_bus (v : List BusEvent) : (s.withBus v).bus = v := rfl
@[simp] theorem State.withBus_orderIndex (v : List BusEvent) : (s.withBus v).orderIndex = s.orderIndex := rfl
@[simp] theorem State.withBus_lane (v : List BusEvent) : (s.withBus v).lane n = s.lane n := rfl
@[simp] theorem State.withBus_self : s.withBus s.bus = s := rfl
@[simp] theorem State.withBus_withBus (v w : List BusEvent) : (s.withBus v).withBus w = s.withBus w := rfl

/-! ### withOrder -/
@[simp] theorem State.withOrder_pending (v : Nat) : (s.withOrder v).pending = s.pending := rfl
@[simp] theorem State.withOrder_resetLine (v : Nat) : (s.withOrder v).resetLine = s.resetLine := rfl
@[simp] theorem State.withOrder_dstop (v : Nat) : (s.withOrder v).dstop = s.dstop := rfl
@[simp] theorem State.withOrder_startUp (v : Nat) : (s.withOrder v).startUp = s.startUp := rfl
@[simp] theorem State.withOrder_partAddress (v : Nat) : (s.withOrder v).partAddress = s.partAddress := rfl
@[simp] theorem State.withOrder_lrx (v : Nat) : (s.withOrder v).lrx = s.lrx := rfl
@[simp] theorem State.withOrder_transit (v : Nat) : (s.withOrder v).transit = s.transit := rfl
@[simp] theorem State.withOrder_lanes (v : Nat) : (s.withOrder v).lanes = s.lanes := rfl
@[simp] theorem State.withOrder_pool (v : Nat) : (s.withOrder v).pool = s.pool := rfl
@[simp] theorem State.withOrder_replies (v : Nat) : (s.withOrder v).replies = s.replies := rfl
@[simp] theorem State.withOrder_etx (v : Nat) : (s.withOrder v).etx = s.etx := rfl
@[simp] theorem State.withOrder_tables (v : Nat) : (s.withOrder v).tables = s.tables := rfl
@[simp] theorem State.withOrder_req (v : Nat) : (s.withOrder v).req = s.req := rfl
@[simp] theorem State.withOrder_boot (v : Nat) : (s.withOrder v).boot = s.boot := rfl
@[simp] theorem State.withOrder_time (v : Nat) : (s.withOrder v).time = s.time := rfl
@[simp] theorem State.withOrder_dtx (v : Nat) : (s.withOrder v).dtx = s.dtx := rfl
@[simp] theorem State.withOrder_bus (v : Nat) : (s.withOrder v).bus = s.bus := rfl
@[simp] theorem State.withOrder_orderIndex (v : Nat) : (s.withOrder v).orderIndex = v := rfl
@[simp] theorem State.withOrder_lane (v : Nat) : (s.withOrder v).lane n = s.lane n := rfl
@[simp] theorem State.withOrder_self : s.withOrder s.orderIndex = s := rfl
@[simp] theorem State.withOrder_withOrder (v w : Nat) : (s.withOrder v).withOrder w = s.withOrder w := rfl

/-! ### withStartUp -/
@[simp] theorem State.withStartUp_pending (v : Bool) : (s.withStartUp v).pending = s.pending := rfl
@[simp] theorem State.withStartUp_resetLine (v : Bool) : (s.withStartUp v).resetLine = s.resetLine := rfl
@[simp] theorem State.withStartUp_dstop (v : Bool) : (s.withStartUp v).dstop = s.dstop := rfl
@[simp] theorem State.withStartUp_startUp (v : Bool) : (s.withStartUp v).startUp = v := rfl
@[simp] theorem State.withStartUp_partAddress (v : Bool) : (s.withStartUp v).partAddress = s.partAddress := rfl
@[simp] theorem State.withStartUp_lrx (v : Bool) : (s.withStartUp v).lrx = s.lrx := rfl
@[simp] theorem State.withStartUp_transit (v : Bool) : (s.withStartUp v).transit = s.transit := rfl
@[simp] theorem State.withStartUp_lanes (v : Bool) : (s.withStartUp v).lanes = s.lanes := rfl
@[simp] theorem State.withStartUp_pool (v : Bool) : (s.withStartUp v).pool = s.pool := rfl
@[simp] theorem State.withStartUp_replies (v : Bool) : (s.withStartUp v).replies = s.replies := rfl
@[simp] theorem State.withStartUp_etx (v : Bool) : (s.withStartUp v).etx = s.etx := rfl
@[simp] theorem State.withStartUp_tables (v : Bool) : (s.withStartUp v).tables = s.tables := rfl
@[simp] theorem State.withStartUp_req (v : Bool) : (s.withStartUp v).req = s.req := rfl
@[simp] theorem State.withStartUp_boot (v : Bool) : (s.withStartUp v).boot = s.boot := rfl
@[simp] theorem State.withStartUp_time (v : Bool) : (s.withStartUp v).time = s.time := rfl
@[simp] theorem State.withStartUp_dtx (v : Bool) : (s.withStartUp v).dtx = s.dtx := rfl
@[simp] theorem State.withStartUp_bus (v : Bool) : (s.withStartUp v).bus = s.bus := rfl
@[simp] theorem State.withStartUp_orderIndex (v : Bool) : (s.withStartUp v).orderIndex = s.orderIndex := rfl
@[simp] theorem State.withStartUp_lane (v : Bool) : (s.withStartUp v).lane n = s.lane n := rfl
@[simp] theorem State.withStartUp_self : s.withStartUp s.startUp = s := rfl
@[simp] theorem State.withStartUp_withStartUp (v w : Bool) : (s.withStartUp v).withStartUp w = s.withStartUp w := rfl

/-! ### withDstop -/
@[simp] theorem State.withDstop_pending (v : Bool) : (s.withDstop v).pending = s.pending := rfl
@[simp] theorem State.withDstop_resetLine (v : Bool) : (s.withDstop v).resetLine = s.resetLine := rfl
@[simp] theorem State.withDstop_dstop (v : Bool) : (s.withDstop v).dstop = v := rfl
@[simp] theorem State.withDstop_startUp (v : Bool) : (s.withDstop v).startUp = s.startUp := rfl
@[simp] theorem State.withDstop_partAddress (v : Bool) : (s.withDstop v).partAddress = s.partAddress := rfl
@[simp] theorem State.withDstop_lrx (v : Bool) : (s.withDstop v).lrx = s.lrx := rfl
@[simp] theorem State.withDstop_transit (v : Bool) : (s.withDstop v).transit = s.transit := rfl
@[simp] theorem State.withDstop_lanes (v : Bool) : (s.withDstop v).lanes = s.lanes := rfl
@[simp] theorem State.withDstop_pool (v : Bool) : (s.withDstop v).pool = s.pool := rfl
@[simp] theorem State.withDstop_replies (v : Bool) : (s.withDstop v).replies = s.replies := rfl
@[simp] theorem State.withDstop_etx (v : Bool) : (s.withDstop v).etx = s.etx := rfl
@[simp] theorem State.withDstop_tables (v : Bool) : (s.withDstop v).tables = s.tables := rfl
@[simp] theorem State.withDstop_req (v : Bool) : (s.withDstop v).req = s.req := rfl
@[simp] theorem State.withDstop_boot (v : Bool) : (s.withDstop v).boot = s.boot := rfl
@[simp] theorem State.withDstop_time (v : Bool) : (s.withDstop v).time = s.time := rfl
@[simp] theorem State.withDstop_dtx (v : Bool) : (s.withDstop v).dtx = s.dtx := rfl
@[simp] theorem State.withDstop_bus (v : Bool) : (s.withDstop v).bus = s.bus := rfl
@[simp] theorem State.withDstop_orderIndex (v : Bool) : (s.withDstop v).orderIndex = s.orderIndex := rfl
@[simp] theorem State.withDstop_lane (v : Bool) : (s.withDstop v).lane n = s.lane n := rfl
@[simp] theorem State.withDstop_self : s.withDstop s.dstop = s := rfl
@[simp] theorem State.withDstop_withDstop (v w : Bool) : (s.withDstop v).withDstop w = s.withDstop w := rfl

/-! ### withPending -/
@[simp] theorem State.withPending_pending (v : List Instr) : (s.withPending v).pending = v := rfl
@[simp] theorem State.withPending_resetLine (v : List Instr) : (s.withPending v).resetLine = s.resetLine := rfl
@[simp] theorem State.withPending_dstop (v : List Instr) : (s.withPending v).dstop = s.dstop := rfl
@[simp] theorem State.withPending_startUp (v : List Instr) : (s.withPending v).startUp = s.startUp := rfl
@[simp] theorem State.withPending_partAddress (v : List Instr) : (s.withPending v).partAddress = s.partAddress := rfl
@[simp] theorem State.withPending_lrx (v : List Instr) : (s.withPending v).lrx = s.lrx := rfl
@[simp] theorem State.withPending_transit (v : List Instr) : (s.withPending v).transit = s.transit := rfl
@[simp] theorem State.withPending_lanes (v : List Instr) : (s.withPending v).lanes = s.lanes := rfl
@[simp] theorem State.withPending_pool (v : List Instr) : (s.withPending v).pool = s.pool := rfl
@[simp] theorem State.withPending_replies (v : List Instr) : (s.withPending v).replies = s.replies := rfl
@[simp] theorem State.withPending_etx (v : List Instr) : (s.withPending v).etx = s.etx := rfl
@[simp] theorem State.withPending_tables (v : List Instr) : (s.withPending v).tables = s.tables := rfl
@[simp] theorem State.withPending_req (v : List Instr) : (s.withPending v).req = s.req := rfl
@[simp] theorem State.withPending_boot (v : List Instr) : (s.withPending v).boot = s.boot := rfl
@[simp] theorem State.withPending_time (v : List Instr) : (s.withPending v).time = s.time := rfl
@[simp] theorem State.withPending_dtx (v : List Instr) : (s.withPending v).dtx = s.dtx := rfl
@[simp] theorem State.withPending_bus (v : List Instr) : (s.withPending v).bus = s.bus := rfl
@[simp] theorem State.withPending_orderIndex (v : List Instr) : (s.withPending v).orderIndex = s.orderIndex := rfl
@[simp] theorem State.withPending_lane (v : List Instr) : (s.withPending v).lane n = s.lane n := rfl
@[simp] theorem State.withPending_self : s.withPending s.pending = s := rfl
@[simp] theorem State.withPending_withPending (v w : List Instr) : (s.withPending v).withPending w = s.withPending w := rfl

/-! ### setLane -/
@[simp] theorem State.setLane_pending : (s.setLane n l).pending = s.pending := rfl
@[simp] theorem State.setLane_resetLine : (s.setLane n l).resetLine = s.resetLine := rfl
@[simp] theorem State.setLane_dstop : (s.setLane n l).dstop = s.dstop := rfl
@[simp] theorem State.setLane_startUp : (s.setLane n l).startUp = s.startUp := rfl
@[simp] theorem State.setLane_partAddress : (s.setLane n l).partAddress = s.partAddress := rfl
@[simp] theorem State.setLane_lrx : (s.setLane n l).lrx = s.lrx := rfl
@[simp] theorem State.setLane_transit : (s.setLane n l).transit = s.transit := rfl
theorem State.setLane_lanes : (s.setLane n l).lanes = s.lanes.set n l := rfl
@[simp] theorem State.setLane_pool : (s.setLane n l).pool = s.pool := rfl
@[simp] theorem State.setLane_replies : (s.setLane n l).replies = s.replies := rfl
@[simp] theorem State.setLane_etx : (s.setLane n l).etx = s.etx := rfl
@[simp] theorem State.setLane_tables : (s.setLane n l).tables = s.tables := rfl
@[simp] theorem State.setLane_req : (s.setLane n l).req = s.req := rfl
@[simp] theorem State.setLane_boot : (s.setLane n l).boot = s.boot := rfl
@[simp] theorem State.setLane_time : (s.setLane n l).time = s.time := rfl
@[simp] theorem State.setLane_dtx : (s.setLane n l).dtx = s.dtx := rfl
@[simp] theorem State.setLane_bus : (s.setLane n l).bus = s.bus := rfl
@[simp] theorem State.setLane_orderIndex : (s.setLane n l).orderIndex = s.orderIndex := rfl

@[simp] theorem State.setLane_lane_same : (s.setLane n l).lane n = l := by simp [State.setLane, State.lane]

theorem State.setLane_lane_ne {m : Fin 4} (h : m ≠ n) : (s.setLane n l).lane m = s.lane m := by
  have h' : n.val ≠ m.val := fun e => h (Fin.ext e.symm)
  simp [State.setLane, State.lane, h']

theorem State.setLane_lane (m : Fin 4) : (s.setLane n l).lane m = if m = n then l else s.lane m := by
  by_cases h : m = n
  · subst h; simp
  · rw [if_neg h, State.setLane_lane_ne _ _ _ h]

@[simp] theorem State.setLane_self : s.setLane n (s.lane n) = s := by
  simp [State.setLane, State.lane]

@[simp] theorem State.setLane_setLane (l' : Lane) : (s.setLane n l).setLane n l' = s.setLane n l' := by
  simp [State.setLane]

/-! ### The parse state, the hold slot and the current unit -/

@[simp] theorem State.withParse_pending (v : Parse) : (s.withParse v).pending = s.pending := rfl
@[simp] theorem State.withParse_resetLine (v : Parse) : (s.withParse v).resetLine = s.resetLine := rfl
@[simp] theorem State.withParse_dstop (v : Parse) : (s.withParse v).dstop = s.dstop := rfl
@[simp] theorem State.withParse_startUp (v : Parse) : (s.withParse v).startUp = s.startUp := rfl
@[simp] theorem State.withParse_partAddress (v : Parse) : (s.withParse v).partAddress = s.partAddress := rfl
@[simp] theorem State.withParse_lrx (v : Parse) : (s.withParse v).lrx = { s.lrx with parse := v } := rfl
@[simp] theorem State.withParse_transit (v : Parse) : (s.withParse v).transit = s.transit := rfl
@[simp] theorem State.withParse_lanes (v : Parse) : (s.withParse v).lanes = s.lanes := rfl
@[simp] theorem State.withParse_pool (v : Parse) : (s.withParse v).pool = s.pool := rfl
@[simp] theorem State.withParse_replies (v : Parse) : (s.withParse v).replies = s.replies := rfl
@[simp] theorem State.withParse_etx (v : Parse) : (s.withParse v).etx = s.etx := rfl
@[simp] theorem State.withParse_tables (v : Parse) : (s.withParse v).tables = s.tables := rfl
@[simp] theorem State.withParse_req (v : Parse) : (s.withParse v).req = s.req := rfl
@[simp] theorem State.withParse_boot (v : Parse) : (s.withParse v).boot = s.boot := rfl
@[simp] theorem State.withParse_time (v : Parse) : (s.withParse v).time = s.time := rfl
@[simp] theorem State.withParse_dtx (v : Parse) : (s.withParse v).dtx = s.dtx := rfl
@[simp] theorem State.withParse_bus (v : Parse) : (s.withParse v).bus = s.bus := rfl
@[simp] theorem State.withParse_orderIndex (v : Parse) : (s.withParse v).orderIndex = s.orderIndex := rfl
@[simp] theorem State.withParse_lane (v : Parse) : (s.withParse v).lane n = s.lane n := rfl

@[simp] theorem State.withHold_pending (v : Option Held) : (s.withHold v).pending = s.pending := rfl
@[simp] theorem State.withHold_resetLine (v : Option Held) : (s.withHold v).resetLine = s.resetLine := rfl
@[simp] theorem State.withHold_dstop (v : Option Held) : (s.withHold v).dstop = s.dstop := rfl
@[simp] theorem State.withHold_startUp (v : Option Held) : (s.withHold v).startUp = s.startUp := rfl
@[simp] theorem State.withHold_partAddress (v : Option Held) : (s.withHold v).partAddress = s.partAddress := rfl
@[simp] theorem State.withHold_lrx (v : Option Held) : (s.withHold v).lrx = { s.lrx with hold := v } := rfl
@[simp] theorem State.withHold_transit (v : Option Held) : (s.withHold v).transit = s.transit := rfl
@[simp] theorem State.withHold_lanes (v : Option Held) : (s.withHold v).lanes = s.lanes := rfl
@[simp] theorem State.withHold_pool (v : Option Held) : (s.withHold v).pool = s.pool := rfl
@[simp] theorem State.withHold_replies (v : Option Held) : (s.withHold v).replies = s.replies := rfl
@[simp] theorem State.withHold_etx (v : Option Held) : (s.withHold v).etx = s.etx := rfl
@[simp] theorem State.withHold_tables (v : Option Held) : (s.withHold v).tables = s.tables := rfl
@[simp] theorem State.withHold_req (v : Option Held) : (s.withHold v).req = s.req := rfl
@[simp] theorem State.withHold_boot (v : Option Held) : (s.withHold v).boot = s.boot := rfl
@[simp] theorem State.withHold_time (v : Option Held) : (s.withHold v).time = s.time := rfl
@[simp] theorem State.withHold_dtx (v : Option Held) : (s.withHold v).dtx = s.dtx := rfl
@[simp] theorem State.withHold_bus (v : Option Held) : (s.withHold v).bus = s.bus := rfl
@[simp] theorem State.withHold_orderIndex (v : Option Held) : (s.withHold v).orderIndex = s.orderIndex := rfl
@[simp] theorem State.withHold_lane (v : Option Held) : (s.withHold v).lane n = s.lane n := rfl

@[simp] theorem State.withUnit_lrx (u : CurrentUnit) :
    (s.withUnit u).lrx = { s.lrx with parse := if u.remaining = 0 then .watch else .body u } := rfl
@[simp] theorem State.withUnit_pending (u : CurrentUnit) : (s.withUnit u).pending = s.pending := rfl
@[simp] theorem State.withUnit_resetLine (u : CurrentUnit) : (s.withUnit u).resetLine = s.resetLine := rfl
@[simp] theorem State.withUnit_dstop (u : CurrentUnit) : (s.withUnit u).dstop = s.dstop := rfl
@[simp] theorem State.withUnit_startUp (u : CurrentUnit) : (s.withUnit u).startUp = s.startUp := rfl
@[simp] theorem State.withUnit_partAddress (u : CurrentUnit) : (s.withUnit u).partAddress = s.partAddress := rfl
@[simp] theorem State.withUnit_transit (u : CurrentUnit) : (s.withUnit u).transit = s.transit := rfl
@[simp] theorem State.withUnit_lanes (u : CurrentUnit) : (s.withUnit u).lanes = s.lanes := rfl
@[simp] theorem State.withUnit_pool (u : CurrentUnit) : (s.withUnit u).pool = s.pool := rfl
@[simp] theorem State.withUnit_replies (u : CurrentUnit) : (s.withUnit u).replies = s.replies := rfl
@[simp] theorem State.withUnit_etx (u : CurrentUnit) : (s.withUnit u).etx = s.etx := rfl
@[simp] theorem State.withUnit_tables (u : CurrentUnit) : (s.withUnit u).tables = s.tables := rfl
@[simp] theorem State.withUnit_req (u : CurrentUnit) : (s.withUnit u).req = s.req := rfl
@[simp] theorem State.withUnit_boot (u : CurrentUnit) : (s.withUnit u).boot = s.boot := rfl
@[simp] theorem State.withUnit_time (u : CurrentUnit) : (s.withUnit u).time = s.time := rfl
@[simp] theorem State.withUnit_dtx (u : CurrentUnit) : (s.withUnit u).dtx = s.dtx := rfl
@[simp] theorem State.withUnit_bus (u : CurrentUnit) : (s.withUnit u).bus = s.bus := rfl
@[simp] theorem State.withUnit_orderIndex (u : CurrentUnit) : (s.withUnit u).orderIndex = s.orderIndex := rfl
@[simp] theorem State.withUnit_lane (u : CurrentUnit) : (s.withUnit u).lane n = s.lane n := rfl

end Sys2Proof.Machine
end

