-- ==== Sys2Proof/Laws/Symbols.lean ====
section
/-! SUPPORT. The fields of the symbols that the part and its senders form (R133, R167). -/

namespace Sys2Proof.Machine

@[simp] theorem isTag_tagSymbol : ∀ (k : BitVec 3) (a : BitVec 5), isTag (tagSymbol k a) = true := by decide +kernel

@[simp] theorem parityError_tagSymbol : ∀ (k : BitVec 3) (a : BitVec 5), parityError (tagSymbol k a) = false := by
  decide +kernel

@[simp] theorem tagKind_tagSymbol : ∀ (k : BitVec 3) (a : BitVec 5), tagKind (tagSymbol k a) = k := by decide +kernel

@[simp] theorem tagAddress_tagSymbol : ∀ (k : BitVec 3) (a : BitVec 5), tagAddress (tagSymbol k a) = a := by
  decide +kernel

@[simp] theorem isTag_dataSymbol : ∀ v : Byte, isTag (dataSymbol v) = false := by decide +kernel

@[simp] theorem parityError_dataSymbol : ∀ v : Byte, parityError (dataSymbol v) = false := by decide +kernel

@[simp] theorem symValue_dataSymbol : ∀ v : Byte, symValue (dataSymbol v) = v := by decide +kernel

theorem dataByteSymbol_fields :
    ∀ (v : Byte) (bad : Bool), isTag (dataByteSymbol ⟨v, bad⟩) = false ∧ parityError (dataByteSymbol ⟨v, bad⟩) = bad ∧
      symValue (dataByteSymbol ⟨v, bad⟩) = v := by decide +kernel

@[simp] theorem isTag_dataByteSymbol (d : DataByte) : isTag (dataByteSymbol d) = false :=
  (dataByteSymbol_fields d.value d.bad).1

@[simp] theorem parityError_dataByteSymbol (d : DataByte) : parityError (dataByteSymbol d) = d.bad :=
  (dataByteSymbol_fields d.value d.bad).2.1

@[simp] theorem symValue_dataByteSymbol (d : DataByte) : symValue (dataByteSymbol d) = d.value :=
  (dataByteSymbol_fields d.value d.bad).2.2

/-- The two length symbols of a unit spell its L (R135). -/
theorem lengthSymbols_eq (l : BitVec 16) :
    lengthSymbols l = [dataSymbol (BitVec.ofNat 8 (l.toNat / 256)), dataSymbol (BitVec.ofNat 8 l.toNat)] := by
  simp [lengthSymbols, beBytes]

theorem lengthOf_lengthSymbols (l : BitVec 16) :
    lengthOf (dataSymbol (BitVec.ofNat 8 (l.toNat / 256))) (dataSymbol (BitVec.ofNat 8 l.toNat)) = l.toNat := by
  have := l.isLt
  simp [lengthOf]
  omega

/-- A byte list of `k` bytes comes back from its number's bytes. -/
theorem beBytes_length (k v : Nat) : (beBytes k v).length = k := by
  induction k generalizing v with
  | zero => rfl
  | succ k ih => simp [beBytes, ih]

theorem symValues_map_dataByteSymbol (ds : List DataByte) :
    symValues (ds.map dataByteSymbol) = ds.map DataByte.value := by
  simp [symValues, Function.comp_def]

end Sys2Proof.Machine
end

