-- ==== Sys2Proof/Laws/Arrival.lean ====
section
/-! SUPPORT. What the arrival of symbols does: a symbol that LRX takes at once, and a whole request unit. -/

namespace Sys2Proof.Machine

variable (s : State)

/-- R143: with the receive FIFO empty and LRX free, a symbol is taken in the event of its arrival. -/
theorem State.arrive_of_free (sym : Symbol) (h : s.lrxFree = true) (hf : s.lrx.fifo = []) :
    s.arrive sym = s.takeSymbol sym := by
  have hr : s.resetLine = false := by
    simp only [State.lrxFree, Bool.and_eq_true, Bool.not_eq_true'] at h
    exact h.1.2
  have hlrx : ({ s.lrx with fifo := [] } : Lrx) = s.lrx := by rw [← hf]
  have hfree : (s.withLrx { s.lrx with fifo := [sym] }).lrxFree = true := h
  simp [State.arrive, hr, hf, fifoPlaces, State.drain, State.drainFifo, hfree, hlrx, State.withLrx_withLrx]

@[simp] theorem State.arriveAll_nil : s.arriveAll [] = s := rfl

@[simp] theorem State.arriveAll_cons (sym : Symbol) (syms : List Symbol) :
    s.arriveAll (sym :: syms) = (s.arrive sym).arriveAll syms := rfl

theorem State.arriveAll_append (xs ys : List Symbol) :
    s.arriveAll (xs ++ ys) = (s.arriveAll xs).arriveAll ys := by simp [State.arriveAll]

/-- LRX is free and nothing waits, with `p` as parse state and the copy as given. -/
def State.parsing (p : Parse) (copy : List Symbol) (cut : Bool) (s : State) : State :=
  s.withLrx { fifo := [], parse := p, hold := none, copy := copy, copyCut := cut }

/-- A state whose LRX may parse: no reset, no start-up. -/
def State.awake (s : State) : Prop := s.resetLine = false ∧ s.startUp = false

theorem State.parsing_of_linkIdle (h : s.linkIdle) : s = s.parsing .watch [] false := by
  rw [State.parsing, ← h.1]; rfl

theorem State.arrive_parsing (p : Parse) (copy : List Symbol) (cut : Bool) (sym : Symbol) (h : s.awake) :
    (s.parsing p copy cut).arrive sym = (s.parsing p copy cut).takeSymbol sym := by
  apply State.arrive_of_free
  · simp [State.lrxFree, State.parsing, h.1, h.2]
  · rfl

variable {s}

@[simp] theorem lengthOf_hi_lo (l : BitVec 16) : lengthOf (hiSymbol l) (loSymbol l) = l.toNat := lengthOf_lengthSymbols l

/-- The tag and the length symbols of a unit, up to the point where its L is known (R135). -/
theorem State.arrive_header (k : BitVec 3) (a : BitVec 5) (l : BitVec 16) (rest : List Symbol) (h : s.linkIdle) :
    s.arriveAll (tagSymbol k a :: lengthSymbols l ++ rest) =
      ((s.parsing (.header (classify s.partAddress (tagSymbol k a)) (tagSymbol k a) (some (hiSymbol l))) [] false).lengthKnown
        (classify s.partAddress (tagSymbol k a)) (tagSymbol k a) (hiSymbol l) (loSymbol l)).arriveAll rest := by
  obtain ⟨hl, hr, hs⟩ := h
  have hs' : s = s.parsing .watch [] false := s.parsing_of_linkIdle ⟨hl, hr, hs⟩
  have aw : s.awake := ⟨hr, hs⟩
  rw [lengthSymbols_eq]
  simp only [List.cons_append, List.nil_append, State.arriveAll_cons]
  conv_lhs => rw [hs']
  rw [State.arrive_parsing s _ _ _ _ aw]
  have e1 : (s.parsing .watch [] false).takeSymbol (tagSymbol k a) =
      s.parsing (.header (classify s.partAddress (tagSymbol k a)) (tagSymbol k a) none) [] false := by
    simp [State.takeSymbol, State.parsing, State.beginHeader, State.withParse]
  rw [e1, State.arrive_parsing s _ _ _ _ aw]
  have e2 : (s.parsing (.header (classify s.partAddress (tagSymbol k a)) (tagSymbol k a) none) [] false).takeSymbol
        (dataSymbol (BitVec.ofNat 8 (l.toNat / 256))) =
      s.parsing (.header (classify s.partAddress (tagSymbol k a)) (tagSymbol k a) (some (hiSymbol l))) [] false := by
    simp [State.takeSymbol, State.parsing, State.takeLength, State.withParse, hiSymbol]
  rw [e2, State.arrive_parsing s _ _ _ _ aw]
  simp [State.takeSymbol, State.parsing, State.takeLength, loSymbol]

/-- An own image unit, or a request, whose L is not 0 stands in UNIT with all its data symbols to come (R135). -/
theorem State.lengthKnown_own (cls : UnitClass) (tag : Symbol) (l : BitVec 16) (hc : cls = .own ∨ cls = .broadcast)
    (hl : l ≠ 0) (p : Parse) (copy : List Symbol) (cut : Bool) :
    (s.parsing p copy cut).lengthKnown cls tag (hiSymbol l) (loSymbol l) =
      s.parsing
        (.body
          { cls := cls, tag := tag, hi := hiSymbol l, lo := loSymbol l, remaining := l.toNat
            dest := if cls = .own ∧ tagKind tag ≠ kindRequest then .awaitLane else .awaitKind [] })
        copy cut := by
  have : l.toNat ≠ 0 := fun e => hl (BitVec.eq_of_toNat_eq e)
  rcases hc with rfl | rfl
  · by_cases hk : tagKind tag = kindRequest <;>
      simp [State.lengthKnown, State.destOf, this, State.withParse, State.parsing, hk]
  · simp [State.lengthKnown, State.destOf, this, State.withParse, State.parsing]

/-! ## A whole request unit (R140, R142, R149) -/

/-- R138: the class of a request unit addressed as the part's requests are. -/
theorem classify_request (s : State) (r : Request) :
    classify s.partAddress (tagSymbol kindRequest (if r.broadcast then broadcastAddress else s.partAddress)) =
      if s.broadcasts r then .broadcast else .own := by
  by_cases hb : r.broadcast = true
  · simp [classify, State.broadcasts, hb, kindRequest, kindFill]
  · by_cases ha : s.partAddress = broadcastAddress <;> simp [classify, State.broadcasts, hb, ha, kindRequest, kindFill]

/-- A request that the Request Unit has taken, its further symbols going to it and to the copy. -/
def State.requesting (u : CurrentUnit) (copy : List Symbol) (cut : Bool) (q : RequestInProgress) (s : State) : State :=
  (s.parsing (if u.remaining = 0 then .watch else .body u) copy cut).withReq { s.req with inProgress := some q }

/-- The copy of a broadcast request after one more symbol. -/
def copyAfter (cls : UnitClass) (copy : List Symbol) (sym : Symbol) : List Symbol :=
  if cls = .broadcast then (if copy.length < copySymbols then copy ++ [sym] else copy) else copy

/-- The truncation mark of the copy after one more symbol. -/
def cutAfter (cls : UnitClass) (copy : List Symbol) (cut : Bool) : Bool :=
  if cls = .broadcast then (if copy.length < copySymbols then cut else true) else cut

theorem State.requesting_step (u : CurrentUnit) (copy : List Symbol) (cut : Bool) (q : RequestInProgress)
    (sym : Symbol) (aw : s.awake) (ht : isTag sym = false) (hd : u.dest = .request) (hr : u.remaining ≠ 0) :
    (s.requesting u copy cut q).arrive sym =
      (if u.remaining = 1 then State.requestEnd else id)
        (s.requesting { u with remaining := u.remaining - 1 } (copyAfter u.cls copy sym) (cutAfter u.cls copy cut)
          (recordSymbol q sym)) := by
  have h1 : (s.requesting u copy cut q).arrive sym = (s.requesting u copy cut q).takeSymbol sym := by
    apply State.arrive_of_free
    · simp [State.lrxFree, State.requesting, State.parsing, aw.1, aw.2]
    · rfl
  rw [h1]
  have hp : (s.requesting u copy cut q).lrx.parse = .body u := by
    simp [State.requesting, State.parsing, hr]
  obtain ⟨cls, tag, hi, lo, rem, dest⟩ := u
  obtain rfl : dest = .request := hd
  dsimp only at hr
  simp only [State.takeSymbol, ht, Bool.false_eq_true, if_false, hp, State.takeBody]
  have e : (((s.requesting ⟨cls, tag, hi, lo, rem, .request⟩ copy cut q).withUnit
        ⟨cls, tag, hi, lo, rem - 1, .request⟩).extendCopy ⟨cls, tag, hi, lo, rem - 1, .request⟩ sym).requestData sym =
      s.requesting ⟨cls, tag, hi, lo, rem - 1, .request⟩ (copyAfter cls copy sym) (cutAfter cls copy cut)
        (recordSymbol q sym) := by
    unfold State.extendCopy copyAfter cutAfter
    by_cases hb : cls = .broadcast
    · by_cases hc : copy.length < copySymbols <;>
        simp [hb, hc, State.requestData, State.requesting, State.parsing, State.withUnit, State.withParse, State.withLrx,
          State.withReq]
    · simp [hb, State.requestData, State.requesting, State.parsing, State.withUnit, State.withParse, State.withLrx,
        State.withReq]
  rw [e]
  by_cases h0 : rem = 1
  · simp only [h0, State.finishUnit, State.requesting, State.parsing, State.withParse]
    rfl
  · have : rem - 1 ≠ 0 := by omega
    simp [h0, this]

/-- The request recorded after more symbols (R149). -/
def recordAll (q : RequestInProgress) (syms : List Symbol) : RequestInProgress :=
  { length := q.length, data := (q.data ++ syms).take requestSymbols, received := q.received + syms.length }

theorem recordAll_cons (q : RequestInProgress) (sym : Symbol) (syms : List Symbol)
    (hq : q.data.length ≤ requestSymbols) : recordAll (recordSymbol q sym) syms = recordAll q (sym :: syms) := by
  unfold recordAll recordSymbol
  by_cases h : q.data.length < requestSymbols
  · simp [h]; omega
  · have he : q.data.length = requestSymbols := by omega
    simp [← he]; omega

theorem recordSymbol_length (q : RequestInProgress) (sym : Symbol) (hq : q.data.length ≤ requestSymbols) :
    (recordSymbol q sym).data.length ≤ requestSymbols := by
  unfold recordSymbol
  by_cases h : q.data.length < requestSymbols
  · simp [h]
  · simp only [h, if_false]; exact hq

/-- The copy of a broadcast request after more symbols (R142). -/
def copyAll (cls : UnitClass) (copy syms : List Symbol) : List Symbol :=
  if cls = .broadcast then (copy ++ syms).take copySymbols else copy

/-- Its truncation mark. -/
def cutAll (cls : UnitClass) (copy syms : List Symbol) (cut : Bool) : Bool :=
  if cls = .broadcast then cut || decide (copySymbols < copy.length + syms.length) else cut

theorem copyAfter_length (cls : UnitClass) (copy : List Symbol) (sym : Symbol) (h : copy.length ≤ copySymbols) :
    (copyAfter cls copy sym).length ≤ copySymbols := by
  unfold copyAfter
  split
  · split
    · simp; omega
    · exact h
  · exact h

theorem copyAll_cons (cls : UnitClass) (copy : List Symbol) (sym : Symbol) (syms : List Symbol)
    (h : copy.length ≤ copySymbols) : copyAll cls (copyAfter cls copy sym) syms = copyAll cls copy (sym :: syms) := by
  unfold copyAll copyAfter
  by_cases hb : cls = .broadcast
  · by_cases hc : copy.length < copySymbols
    · simp [hb, hc]
    · have he : copy.length = copySymbols := by omega
      simp [hb, ← he]
  · simp [hb]

theorem cutAll_cons (cls : UnitClass) (copy : List Symbol) (sym : Symbol) (syms : List Symbol) (cut : Bool)
    (h : copy.length ≤ copySymbols) :
    cutAll cls (copyAfter cls copy sym) syms (cutAfter cls copy cut) = cutAll cls copy (sym :: syms) cut := by
  unfold cutAll copyAfter cutAfter
  by_cases hb : cls = .broadcast
  · by_cases hc : copy.length < copySymbols
    · simp [hb, hc]; congr 2; simp; omega
    · have he : copy.length = copySymbols := by omega
      simp [hb, he]
  · simp [hb]

/-- The data symbols of a request that the Request Unit has taken, up to its end (R142, R149). -/
theorem State.requesting_all (syms : List Symbol) (u : CurrentUnit) (copy : List Symbol) (cut : Bool)
    (q : RequestInProgress) (aw : s.awake) (ht : ∀ sym ∈ syms, isTag sym = false) (hd : u.dest = .request)
    (hr : u.remaining = syms.length) (h0 : syms ≠ []) (hq : q.data.length ≤ requestSymbols)
    (hc : copy.length ≤ copySymbols) :
    (s.requesting u copy cut q).arriveAll syms =
      (s.requesting { u with remaining := 0 } (copyAll u.cls copy syms) (cutAll u.cls copy syms cut)
        (recordAll q syms)).requestEnd := by
  induction syms generalizing u copy cut q with
  | nil => exact absurd rfl h0
  | cons sym rest ih =>
    have hr' : u.remaining ≠ 0 := by rw [hr]; simp
    rw [State.arriveAll_cons, State.requesting_step u copy cut q sym aw (ht _ (by simp)) hd hr']
    rw [← copyAll_cons _ _ _ _ hc, ← cutAll_cons _ _ _ _ _ hc, ← recordAll_cons _ _ _ hq]
    by_cases hrest : rest = []
    · subst hrest
      have h1 : u.remaining = 1 := by rw [hr]; rfl
      have e1 := copyAfter_length u.cls copy sym hc
      have e2 := recordSymbol_length q sym hq
      simp only [h1, if_true, State.arriveAll_nil]
      congr 2
      · unfold copyAll; split <;> simp [List.take_of_length_le e1]
      · unfold cutAll; split
        · simp; omega
        · rfl
      · unfold recordAll; simp [List.take_of_length_le e2]
    · have h1 : u.remaining ≠ 1 := by
        rw [hr]; intro e; apply hrest; simpa using e
      simp only [h1, if_false, id]
      rw [ih { u with remaining := u.remaining - 1 } _ _ _ (fun x hx => ht x (by simp [hx])) hd (by simp [hr]) hrest
        (recordSymbol_length q sym hq) (copyAfter_length u.cls copy sym hc)]

/-- The request that stands taken when its whole unit has arrived: its reply owed, its copy complete. -/
def State.taken (kind : Byte) (r : Request) (s : State) : State :=
  (s.parsing .watch
    (if s.broadcasts r then (requestUnitSymbols kind s.partAddress r).take copySymbols else [])
    (s.broadcasts r && decide (copySymbols < r.length.toNat + 3))).withReq
      { s.req with inProgress := none, owed := s.req.owed + 1 }

theorem requestUnitSymbols_eq (kind : Byte) (a : BitVec 5) (r : Request) :
    requestUnitSymbols kind a r =
      tagSymbol kindRequest (if r.broadcast then broadcastAddress else a) :: lengthSymbols r.length ++
        (dataByteSymbol r.tag :: dataByteSymbol ⟨kind, r.kindBad⟩ :: r.operands.map dataByteSymbol) := by
  simp [requestUnitSymbols, requestData]

/-- The Request Unit takes a request presented with its tag and kind (R149). -/
theorem State.presentRequest_taken (u : CurrentUnit) (tg kd : Symbol) (p : Parse) (hf : s.refusesRequest [tg, kd] = false)
    (hl : u.remaining + 2 = unitLength u) (hd : u.dest = .request) (hc : u.cls = .own ∨ u.cls = .broadcast)
    (dest : Dest) :
    (s.parsing p [] false).presentRequest { unit := { u with dest := dest }, data := [tg, kd], ended := decide (u.remaining = 0) } =
      (if u.remaining = 0 then State.requestEnd else id)
        ((s.withReq { s.req with owed := s.req.owed + 1 }).requesting u
          (if u.cls = .broadcast then [u.tag, u.hi, u.lo, tg, kd] else []) false
          { length := unitLength u, data := [tg, kd], received := 2 }) := by
  obtain ⟨cls, tag, hi, lo, rem, dest'⟩ := u
  obtain rfl : dest' = .request := hd
  have hf' : (s.parsing p [] false).refusesRequest [tg, kd] = false := hf
  simp only [unitLength] at hl
  simp only [State.presentRequest, hf', Bool.false_eq_true, if_false, unitLength]
  by_cases h0 : rem = 0
  · have : ¬ 2 < lengthOf hi lo := by omega
    rcases hc with rfl | rfl <;>
      simp [h0, this, State.startCopy, State.takeRequest, State.requesting, State.parsing, State.withUnit, State.withParse,
        State.withHold, State.withLrx, State.withReq]
  · rcases hc with rfl | rfl <;>
      simp [h0, State.startCopy, State.takeRequest, State.requesting, State.parsing, State.withUnit, State.withParse,
        State.withHold, State.withLrx, State.withReq]

/-- R140, R142, R149: a whole request unit that the Request Unit takes is executed in the event of its last symbol. -/
theorem State.arriveRequest_whole (kind : Byte) (r : Request) (h : s.takesRequest kind r) (hw : wholeRequest r) :
    s.arriveRequest kind r = (s.taken kind r).execute (recorded kind r) := by
  obtain ⟨hl, hin, hrep, hboot⟩ := h
  have aw : s.awake := hl.2
  have hL : r.length ≠ 0 := by
    rintro he; rw [wholeRequest, he] at hw; simp at hw
  rw [State.arriveRequest, requestUnitSymbols_eq, State.arrive_header _ _ _ _ hl, classify_request]
  generalize htag : tagSymbol kindRequest (if r.broadcast then broadcastAddress else s.partAddress) = tag
  have hkind : tagKind tag = kindRequest := by rw [← htag]; simp
  generalize hcls : (if s.broadcasts r then UnitClass.broadcast else .own) = cls
  have hc : cls = .own ∨ cls = .broadcast := by rw [← hcls]; split <;> simp
  rw [State.lengthKnown_own cls tag r.length hc hL]
  simp only [hkind, ne_eq, not_true, and_false, if_false]
  set tg := dataByteSymbol r.tag with htg
  set kd := dataByteSymbol ⟨kind, r.kindBad⟩ with hkd
  have hL2 : r.length.toNat = r.operands.length + 2 := hw.symm
  rw [State.arriveAll_cons, State.arrive_parsing s _ _ _ _ aw]
  have e1 : (s.parsing (.body ⟨cls, tag, hiSymbol r.length, loSymbol r.length, r.length.toNat, .awaitKind []⟩) []
        false).takeSymbol tg =
      s.parsing (.body ⟨cls, tag, hiSymbol r.length, loSymbol r.length, r.length.toNat - 1, .awaitKind [tg]⟩) [] false := by
    have : r.length.toNat - 1 ≠ 0 := by omega
    simp [State.takeSymbol, State.parsing, htg, State.takeBody, State.takeKindSymbol, this, State.withParse]
  rw [e1, State.arriveAll_cons, State.arrive_parsing s _ _ _ _ aw]
  have hrf : s.refusesRequest [tg, kd] = false := by
    simp only [State.refusesRequest, Bool.or_eq_false_iff, decide_eq_false_iff_not, not_le]
    refine ⟨hrep, ?_⟩
    simp only [List.getElem?_cons_succ, List.getElem?_cons_zero, Option.any_some, hkd, parityError_dataByteSymbol,
      symValue_dataByteSymbol, Bool.and_eq_false_iff, Bool.not_eq_false']
    by_cases h1 : s.req.bootRunning.isSome
    · by_cases h2 : kind = kindReloadBoot
      · by_cases h3 : r.kindBad = false
        · exact absurd ⟨h1, h2, h3⟩ hboot
        · simp [h3]
      · simp [h2]
    · simp [h1]
  let u : CurrentUnit := ⟨cls, tag, hiSymbol r.length, loSymbol r.length, r.operands.length, .request⟩
  have e2 : (s.parsing (.body ⟨cls, tag, hiSymbol r.length, loSymbol r.length, r.length.toNat - 1, .awaitKind [tg]⟩) []
        false).takeSymbol kd =
      (if u.remaining = 0 then State.requestEnd else id)
        ((s.withReq { s.req with owed := s.req.owed + 1 }).requesting u
          (if u.cls = .broadcast then [u.tag, u.hi, u.lo, tg, kd] else []) false
          { length := unitLength u, data := [tg, kd], received := 2 }) := by
    rw [← State.presentRequest_taken u tg kd .watch hrf (by simp [u, unitLength, hL2]) rfl hc (.awaitKind [tg])]
    have : r.length.toNat - 1 - 1 = r.operands.length := by omega
    simp [State.takeSymbol, State.parsing, hkd, State.takeBody, State.takeKindSymbol, this, State.withParse,
      State.present, hkind, u]
  rw [e2]
  have aw' : (s.withReq { s.req with owed := s.req.owed + 1 }).awake := aw
  have hlen : unitLength u = r.length.toNat := by simp [u, unitLength]
  have key : (State.requestEnd ((s.withReq { s.req with owed := s.req.owed + 1 }).requesting { u with remaining := 0 }
        (copyAll u.cls (if u.cls = .broadcast then [u.tag, u.hi, u.lo, tg, kd] else []) (r.operands.map dataByteSymbol))
        (cutAll u.cls (if u.cls = .broadcast then [u.tag, u.hi, u.lo, tg, kd] else []) (r.operands.map dataByteSymbol)
          false)
        (recordAll { length := unitLength u, data := [tg, kd], received := 2 } (r.operands.map dataByteSymbol)))) =
      (s.taken kind r).execute (recorded kind r) := by
    have hq : recordAll { length := unitLength u, data := [tg, kd], received := 2 } (r.operands.map dataByteSymbol) =
        recorded kind r := by
      have : 2 + r.operands.length = r.length.toNat := by omega
      simp [recordAll, recorded, requestSyms, Machine.requestData, hlen, htg, hkd, this]
    rw [hq]
    have hst : ((s.withReq { s.req with owed := s.req.owed + 1 }).requesting { u with remaining := 0 }
          (copyAll u.cls (if u.cls = .broadcast then [u.tag, u.hi, u.lo, tg, kd] else [])
            (r.operands.map dataByteSymbol))
          (cutAll u.cls (if u.cls = .broadcast then [u.tag, u.hi, u.lo, tg, kd] else [])
            (r.operands.map dataByteSymbol) false) (recorded kind r)) =
        (s.taken kind r).withReq { (s.taken kind r).req with inProgress := some (recorded kind r) } := by
      simp only [State.requesting, State.taken, State.parsing, if_true, State.withLrx, State.withReq, u, copyAll, cutAll]
      by_cases hb : s.broadcasts r = true
      · have hcb : cls = .broadcast := by rw [← hcls, if_pos hb]
        have hy : decide (copySymbols < 5 + r.operands.length) = decide (copySymbols < r.length.toNat + 3) := by
          rw [hL2]; congr 1; simp; omega
        simp [hb, hcb, requestUnitSymbols_eq, lengthSymbols_eq, htag, hiSymbol, loSymbol, htg, hkd, hy]
      · have hcb : cls = .own := by rw [← hcls, if_neg hb]
        simp [hb, hcb]
    rw [hst, State.requestEnd]
    have hid : ((s.taken kind r).withReq { (s.taken kind r).req with inProgress := none }) = s.taken kind r := rfl
    simp only [State.withReq_req, State.withReq_withReq, hid]
  by_cases h0 : r.operands = []
  · have hu : u.remaining = 0 := by simp [u, h0]
    have e1 : u.remaining = 0 := hu
    rw [if_pos hu, ← key]
    simp only [h0, List.map_nil, State.arriveAll_nil]
    congr 1
    have hur : ({ u with remaining := 0 } : CurrentUnit) = u := by simp [u, h0]
    rw [hur]
    congr 1
    · unfold copyAll; split <;> simp [copySymbols]
    · unfold cutAll; split <;> simp [copySymbols]
  · have hu : u.remaining ≠ 0 := by simpa [u] using h0
    rw [if_neg hu, id, ← key]
    apply State.requesting_all _ u _ _ _ aw'
    · intro sym hs
      obtain ⟨d, -, rfl⟩ := List.mem_map.1 hs
      simp
    · rfl
    · simp [u]
    · simpa using h0
    · simp [requestSymbols]
    · split <;> simp [copySymbols]

end Sys2Proof.Machine
end

