-- ==== Sys2Proof/Laws/Lanes.lean ====
section
/-! SUPPORT. What the operations of a lane leave alone: one frame for all of them, and that none of them reads or writes
LRX. -/

namespace Sys2Proof.Machine

/-- Everything that no operation of lane `n` changes. -/
structure LaneFrame (n : Fin 4) (s t : State) : Prop where
  pending : t.pending = s.pending
  resetLine : t.resetLine = s.resetLine
  dstop : t.dstop = s.dstop
  startUp : t.startUp = s.startUp
  partAddress : t.partAddress = s.partAddress
  lrx : t.lrx = s.lrx
  transit : t.transit = s.transit
  others : ∀ m, m ≠ n → t.lane m = s.lane m
  replies : t.replies = s.replies
  etx : t.etx = s.etx
  tables : t.tables = { s.tables with inUse := t.tables.inUse }
  req : t.req = { s.req with itemsCompleted := t.req.itemsCompleted, events := t.req.events }
  boot : t.boot = s.boot
  time : t.time = s.time
  dtx : t.dtx = s.dtx
  bus : t.bus = s.bus

theorem LaneFrame.refl (n : Fin 4) (s : State) : LaneFrame n s s := by constructor <;> simp

theorem LaneFrame.trans {n : Fin 4} {s t u : State} (h : LaneFrame n s t) (h' : LaneFrame n t u) : LaneFrame n s u where
  pending := h'.pending.trans h.pending
  resetLine := h'.resetLine.trans h.resetLine
  dstop := h'.dstop.trans h.dstop
  startUp := h'.startUp.trans h.startUp
  partAddress := h'.partAddress.trans h.partAddress
  lrx := h'.lrx.trans h.lrx
  transit := h'.transit.trans h.transit
  others := fun m hm => (h'.others m hm).trans (h.others m hm)
  replies := h'.replies.trans h.replies
  etx := h'.etx.trans h.etx
  tables := by rw [h'.tables, h.tables]
  req := by rw [h'.req, h.req]
  boot := h'.boot.trans h.boot
  time := h'.time.trans h.time
  dtx := h'.dtx.trans h.dtx
  bus := h'.bus.trans h.bus

variable (n : Fin 4) (s : State)

theorem LaneFrame.setLane (l : Lane) : LaneFrame n s (s.setLane n l) := by
  constructor <;> first | rfl | (intro m hm; exact State.setLane_lane_ne s n l hm)

theorem LaneFrame.withPool (v : Nat) : LaneFrame n s (s.withPool v) := by constructor <;> simp

theorem LaneFrame.withOrder (v : Nat) : LaneFrame n s (s.withOrder v) := by constructor <;> simp

theorem LaneFrame.withInUse (v : Vector Nat 4) : LaneFrame n s (s.withTables { s.tables with inUse := v }) := by
  constructor <;> simp

theorem LaneFrame.withCounts (v : Vector Nat 4) (e : EventFlags) :
    LaneFrame n s (s.withReq { s.req with itemsCompleted := v, events := e }) := by constructor <;> simp

theorem LaneFrame.noteLost (before after : Lane) : LaneFrame n s (s.noteLost before after) := by
  unfold State.noteLost
  split
  · exact LaneFrame.withCounts n s s.req.itemsCompleted _
  · exact .refl n s

theorem LaneFrame.endLineOf : LaneFrame n s (s.endLineOf n) :=
  ((LaneFrame.setLane n s _).trans (.noteLost n _ _ _)).trans (.withOrder n _ _)

theorem LaneFrame.raiseTone (sn : Snapshot) : LaneFrame n s (s.raiseTone sn) := by
  unfold State.raiseTone
  split
  · exact .withInUse n s _
  · exact .refl n s

theorem LaneFrame.lowerTone (sn : Snapshot) : LaneFrame n s (s.lowerTone sn) := by
  unfold State.lowerTone
  split
  · exact .withInUse n s _
  · exact .refl n s

theorem LaneFrame.countItem : LaneFrame n s (s.countItem n) := .withCounts n s _ s.req.events

theorem LaneFrame.endClosing : LaneFrame n s (s.endClosing n) :=
  (((LaneFrame.setLane n s _).trans (.withPool n _ _)).trans (.lowerTone n _ _)).trans (.countItem n _)

theorem LaneFrame.tryQueue : LaneFrame n s (s.tryQueue n) := by
  unfold State.tryQueue
  split
  · exact .endClosing n s
  · exact .refl n s

theorem LaneFrame.closeLane : LaneFrame n s (s.closeLane n) := (LaneFrame.setLane n s _).trans (.tryQueue n _)

theorem LaneFrame.checkOpen (syms : List Symbol) : LaneFrame n s (s.checkOpen n syms) := by
  unfold State.checkOpen
  dsimp only
  split
  · exact .setLane n s _
  · split
    · exact ((LaneFrame.setLane n s _).trans (.withPool n _ _)).trans (.raiseTone n _ _)
    · exact .setLane n s _

theorem LaneFrame.checkClose (syms : List Symbol) : LaneFrame n s (s.checkClose n syms) :=
  (LaneFrame.setLane n s _).trans (.closeLane n _)

theorem LaneFrame.completeLine (arrived : Nat) : LaneFrame n s (s.completeLine n arrived) := by
  unfold State.completeLine
  dsimp only
  split
  · exact (LaneFrame.setLane n s _).trans (.endLineOf n _)
  · exact .refl n s

theorem LaneFrame.pixel (arrived : Nat) (prev : Byte) (sym : Symbol) : LaneFrame n s (s.pixel n arrived prev sym) := by
  unfold State.pixel
  dsimp only
  split
  · split
    · exact (LaneFrame.setLane n s _).trans (.endLineOf n _)
    · exact .setLane n s _
  · exact .setLane n s _

theorem LaneFrame.laneData (sym : Symbol) : LaneFrame n s (s.laneData n sym) := by
  unfold State.laneData
  split
  · exact .refl n s
  · exact .refl n s
  · split
    · exact .checkOpen n s _
    · exact .setLane n s _
  · exact .pixel n s _ _ _
  · split
    · exact .checkClose n s _
    · exact .setLane n s _

theorem LaneFrame.laneUnitEnd : LaneFrame n s (s.laneUnitEnd n) := by
  unfold State.laneUnitEnd
  dsimp only
  split
  · exact .setLane n s _
  · exact .setLane n s _
  · exact (LaneFrame.checkOpen n s _).trans (.setLane n _ _)
  · exact (LaneFrame.completeLine n s _).trans (.setLane n _ _)
  · exact (LaneFrame.checkClose n s _).trans (.setLane n _ _)

theorem LaneFrame.supersede : LaneFrame n s (s.supersede n) := (LaneFrame.setLane n s _).trans (.closeLane n _)

theorem LaneFrame.closeDiscard : LaneFrame n s (s.closeDiscard n) := (LaneFrame.setLane n s _).trans (.closeLane n _)

theorem LaneFrame.beginImage (kind : BitVec 3) (laneSym : Symbol) : LaneFrame n s (s.beginImage kind n laneSym) := by
  unfold State.beginImage
  split
  · exact .closeDiscard n s
  · exact .setLane n s _

theorem LaneFrame.abort : LaneFrame n s (s.abort n) := by
  unfold State.abort
  split
  · exact (LaneFrame.setLane n s _).trans (.tryQueue n _)
  · exact .refl n s

theorem LaneFrame.expire : LaneFrame n s (s.expire n) := by
  unfold State.expire
  dsimp only
  split
  · exact (LaneFrame.setLane n s _).trans (.closeLane n _)
  · exact (((LaneFrame.completeLine n s _).trans (.setLane n _ _)).trans (.setLane n _ _)).trans (.closeLane n _)
  all_goals exact ((LaneFrame.setLane n s _).trans (.setLane n _ _)).trans (.closeLane n _)

/-! ## No lane operation reads or writes LRX -/

/-- An operation of the lanes that neither reads nor writes LRX. -/
def OffLink (f : State → State) : Prop := ∀ s v, f (s.withLrx v) = (f s).withLrx v

theorem OffLink.noteLost (before after : Lane) : OffLink (State.noteLost before after) := fun s v => by
  unfold State.noteLost
  split <;> rfl

theorem OffLink.endLineOf : OffLink (State.endLineOf n) := fun s v =>
  congrArg (fun t => t.withOrder (s.orderIndex + 1))
    (OffLink.noteLost (s.lane n) (endLine (s.laneTone n) (Config.groupFirst s.orderIndex) n (s.lane n))
      (s.setLane n (endLine (s.laneTone n) (Config.groupFirst s.orderIndex) n (s.lane n))) v)

theorem OffLink.raiseTone (sn : Snapshot) : OffLink (State.raiseTone sn) := fun s v => by
  unfold State.raiseTone
  split <;> rfl

theorem OffLink.lowerTone (sn : Snapshot) : OffLink (State.lowerTone sn) := fun s v => by
  unfold State.lowerTone
  split <;> rfl

theorem OffLink.endClosing : OffLink (State.endClosing n) := fun s v =>
  congrArg (State.countItem n)
    (OffLink.lowerTone (s.lane n).snap ((s.setLane n (queueFinal (s.lane n))).releasePool (allocation (s.lane n))) v)

theorem OffLink.tryQueue : OffLink (State.tryQueue n) := fun s v => by
  change (if canQueue (s.lane n) then State.endClosing n (s.withLrx v) else s.withLrx v) =
    State.withLrx (if canQueue (s.lane n) then s.endClosing n else s) v
  split
  · exact OffLink.endClosing n s v
  · rfl

theorem OffLink.closeLane : OffLink (State.closeLane n) := fun s v =>
  OffLink.tryQueue n (s.setLane n (enterClosing (s.laneTone n) n (s.lane n))) v

theorem OffLink.checkOpen (syms : List Symbol) : OffLink (State.checkOpen n syms) := fun s v => by
  by_cases h : badHeader syms (headerOf syms) = true
  · unfold State.checkOpen
    rw [if_pos h, if_pos h]
    rfl
  · unfold State.checkOpen
    rw [if_neg h, if_neg h]
    by_cases hv : s.tables.profiles[Fin.ofNat 16 (headerOf syms).profile.toNat].valid = true
    · have hv' : (s.withLrx v).tables.profiles[Fin.ofNat 16 (headerOf syms).profile.toNat].valid = true := hv
      dsimp only
      rw [if_pos hv, if_pos hv']
      exact OffLink.raiseTone _ ((s.setLane n _).withPool _) v
    · have hv' : ¬(s.withLrx v).tables.profiles[Fin.ofNat 16 (headerOf syms).profile.toNat].valid = true := hv
      dsimp only
      rw [if_neg hv, if_neg hv']
      rfl

theorem OffLink.checkClose (syms : List Symbol) : OffLink (State.checkClose n syms) := fun s v =>
  OffLink.closeLane n (s.setLane n (countCheck syms { s.lane n with taking := .dropping })) v

theorem OffLink.completeLine (arrived : Nat) : OffLink (State.completeLine n arrived) := fun s v => by
  let s' := s.setLane n (supplyPixels ((s.lane n).header.wIn.toNat - arrived) (countShort (s.lane n)))
  change (if arrived < (s.lane n).header.wIn.toNat then State.endLineOf n (s'.withLrx v) else s.withLrx v) =
    State.withLrx (if arrived < (s.lane n).header.wIn.toNat then s'.endLineOf n else s) v
  split
  · exact OffLink.endLineOf n s' v
  · rfl

theorem OffLink.pixel (arrived : Nat) (prev : Byte) (sym : Symbol) : OffLink (State.pixel n arrived prev sym) :=
  fun s v => by
    let s' := s.setLane n (takePixel arrived prev sym (s.lane n))
    let s'' := s.setLane n (surplusPixel arrived prev (s.lane n))
    change (if arrived < (s.lane n).header.wIn.toNat then
        (if arrived + 1 = (s.lane n).header.wIn.toNat then State.endLineOf n (s'.withLrx v) else s'.withLrx v)
        else s''.withLrx v) =
      State.withLrx (if arrived < (s.lane n).header.wIn.toNat then
        (if arrived + 1 = (s.lane n).header.wIn.toNat then s'.endLineOf n else s') else s'') v
    split
    · split
      · exact OffLink.endLineOf n s' v
      · rfl
    · rfl

theorem OffLink.laneData (sym : Symbol) : OffLink (State.laneData n sym) := fun s v => by
  have hl : (s.withLrx v).lane n = s.lane n := rfl
  unfold State.laneData
  rw [hl]
  cases ht : (s.lane n).taking with
  | none => rfl
  | dropping => rfl
  | header syms =>
    dsimp only
    split
    · exact OffLink.checkOpen n _ s v
    · rfl
  | line arrived prev => exact OffLink.pixel n _ _ _ s v
  | close syms =>
    dsimp only
    split
    · exact OffLink.checkClose n _ s v
    · rfl

theorem OffLink.laneUnitEnd : OffLink (State.laneUnitEnd n) := fun s v => by
  have hl : (s.withLrx v).lane n = s.lane n := rfl
  unfold State.laneUnitEnd
  rw [hl]
  cases ht : (s.lane n).taking with
  | none => rfl
  | dropping => rfl
  | header syms => dsimp only; rw [OffLink.checkOpen n _ s v]; rfl
  | line arrived prev => dsimp only; rw [OffLink.completeLine n _ s v]; rfl
  | close syms => dsimp only; rw [OffLink.checkClose n _ s v]; rfl

theorem OffLink.supersede : OffLink (State.supersede n) :=
  fun s v => OffLink.closeLane n (s.setLane n { s.lane n with flags := { (s.lane n).flags with superseded := true } }) v

theorem OffLink.closeDiscard : OffLink (State.closeDiscard n) :=
  fun s v => OffLink.closeLane n (s.setLane n { s.lane n with taking := .dropping }) v

theorem OffLink.beginImage (kind : BitVec 3) (laneSym : Symbol) : OffLink (State.beginImage kind n laneSym) :=
  fun s v => by
    change (if kind = kindItemClose ∧ (s.lane n).state = .discard then State.closeDiscard n (s.withLrx v)
        else (s.withLrx v).setLane n (takeImage kind laneSym (s.lane n))) =
      State.withLrx (if kind = kindItemClose ∧ (s.lane n).state = .discard then s.closeDiscard n
        else s.setLane n (takeImage kind laneSym (s.lane n))) v
    split
    · exact OffLink.closeDiscard n s v
    · rfl

end Sys2Proof.Machine
end

