-- ==== Sys2Proof/Laws/Images.lean ====
section
/-! SUPPORT. What the arrival of a whole image unit does: taken by its lane, dropped as a stray, or held. -/

namespace Sys2Proof.Machine

variable {s : State} {n : Fin 4}

/-- R138: an image unit for a part whose address is not 31 is an own unit. -/
theorem classify_image {kind : BitVec 3} (hk : imageKind kind) (a : BitVec 5) (ha : a ≠ broadcastAddress) :
    classify a (tagSymbol kind a) = .own := by
  rcases hk with rfl | rfl | rfl <;>
    simp [classify, ha, kindFill, kindRequest, kindItemOpen, kindLine, kindItemClose]

theorem imageKind_ne_request {kind : BitVec 3} (hk : imageKind kind) : kind ≠ kindRequest := by
  rcases hk with rfl | rfl | rfl <;> decide

/-- The further data symbols of an image unit that lane `n` has taken, up to its end (R2, R136). -/
theorem State.lane_all (syms : List Symbol) (u : CurrentUnit) (aw : s.awake) (hl : s.lrx = {})
    (ht : ∀ sym ∈ syms, isTag sym = false) (hd : u.dest = .lane n) (hr : u.remaining = syms.length) (h0 : syms ≠ []) :
    (s.parsing (.body u) [] false).arriveAll syms = (syms.foldl (fun s sym => s.laneData n sym) s).laneUnitEnd n := by
  induction syms generalizing s u with
  | nil => exact absurd rfl h0
  | cons sym rest ih =>
    obtain ⟨cls, tag, hi, lo, rem, dest⟩ := u
    obtain rfl : dest = .lane n := hd
    obtain rfl : rem = rest.length + 1 := hr
    have fr := LaneFrame.laneData n s sym
    rw [State.arriveAll_cons, State.arrive_parsing s _ _ _ _ aw]
    have e : (s.parsing (.body ⟨cls, tag, hi, lo, rest.length + 1, .lane n⟩) [] false).takeSymbol sym =
        if rest.length = 0 then (s.laneData n sym).laneUnitEnd n
        else (s.laneData n sym).parsing (.body ⟨cls, tag, hi, lo, rest.length, .lane n⟩) [] false := by
      simp only [State.takeSymbol, ht sym (by simp), Bool.false_eq_true, if_false, State.parsing, State.withLrx_lrx,
        State.takeBody, Nat.add_sub_cancel, State.withUnit, State.withParse, State.withLrx_withLrx]
      rw [OffLink.laneData n sym s]
      by_cases hz : rest.length = 0
      · simp only [hz, if_true, State.finishUnit, State.withParse, State.withLrx_withLrx, State.withLrx_lrx]
        rw [OffLink.laneUnitEnd n]
        have : (s.laneData n sym).laneUnitEnd n = ((s.laneData n sym).laneUnitEnd n).withLrx
            ((s.laneData n sym).laneUnitEnd n).lrx := rfl
        rw [this, State.withLrx_withLrx, (LaneFrame.laneUnitEnd n (s.laneData n sym)).lrx, fr.lrx, hl]
      · simp only [hz, if_false]
    rw [e]
    by_cases hz : rest = []
    · subst hz; rfl
    · have : rest.length ≠ 0 := by simpa using hz
      rw [if_neg this, ih _ ⟨fr.resetLine.trans aw.1, fr.startUp.trans aw.2⟩ (fr.lrx.trans hl)
        (fun x hx => ht x (by simp [hx])) rfl rfl hz]
      rfl

/-- The lane that a lane symbol names. -/
theorem ofNat_lane (n : Fin 4) : Fin.ofNat 4 n.val = n := by
  apply Fin.ext; simp [Fin.ofNat]

/-- R2, R140: a whole image unit that its lane takes. -/
theorem State.arriveImage_taken {kind : BitVec 3} (hk : imageKind kind) (h : s.linkIdle)
    (ha : s.partAddress ≠ broadcastAddress) (u : ImageUnit) (hw : wholeImage u) (d : DataByte) (ds : List DataByte)
    (hd : u.data = d :: ds) (hb : d.bad = false) (hn : d.value.toNat = n.val)
    (hboot : kind = kindItemOpen → s.req.bootRunning = none) (href : laneRefuses kind (s.lane n) = false)
    (hst : isStray kind (s.lane n) = false) :
    s.arriveImage kind u =
      ((ds.map dataByteSymbol).foldl (fun s sym => s.laneData n sym)
        (s.beginImage kind n (dataByteSymbol d))).laneUnitEnd n := by
  have aw : s.awake := h.2
  have hlen : u.length.toNat = ds.length + 1 := by rw [← hw, hd]; rfl
  have hL : u.length ≠ 0 := by rintro e; rw [e] at hlen; simp at hlen
  rw [State.arriveImage, imageSymbols, State.arrive_header _ _ _ _ h, classify_image hk _ ha,
    State.lengthKnown_own _ _ _ (.inl rfl) hL, hd]
  simp only [tagKind_tagSymbol, ne_eq, imageKind_ne_request hk, not_false_eq_true, and_true, if_true, List.map_cons,
    State.arriveAll_cons]
  rw [State.arrive_parsing s _ _ _ _ aw]
  generalize hsym : dataByteSymbol d = sym
  have hv : symValue sym = d.value := by rw [← hsym]; simp
  have hp : parityError sym = false := by rw [← hsym]; simpa using hb
  have hi : isTag sym = false := by rw [← hsym]; simp
  generalize htag : tagSymbol kind s.partAddress = tag
  have htk : tagKind tag = kind := by rw [← htag]; simp
  let u' : CurrentUnit := ⟨.own, tag, hiSymbol u.length, loSymbol u.length, ds.length, .lane n⟩
  have fr := LaneFrame.beginImage n s kind sym
  have e : (s.parsing (.body ⟨.own, tag, hiSymbol u.length, loSymbol u.length, u.length.toNat, .awaitLane⟩) []
        false).takeSymbol sym =
      if ds.length = 0 then (s.beginImage kind n sym).laneUnitEnd n
      else (s.beginImage kind n sym).parsing (.body u') [] false := by
    have hsub : u.length.toNat - 1 = ds.length := by omega
    have hnb : ¬ (kind = kindItemOpen ∧ s.req.bootRunning.isSome = true) := by
      rintro ⟨h1, h2⟩; rw [hboot h1] at h2; simp at h2
    have hnr : kind ≠ kindRequest := imageKind_ne_request hk
    simp only [State.takeSymbol, hi, Bool.false_eq_true, if_false, State.parsing, State.withLrx_lrx, State.takeBody,
      State.takeLaneSymbol, hp, hv, hsub, State.present, htk, hnr, hn, ofNat_lane,
      State.presentImage]
    rw [if_neg (by simp; omega), if_neg (by exact hnb), if_neg (by exact Bool.eq_false_iff.1 href), if_neg (by exact Bool.eq_false_iff.1 hst)]
    simp only [State.acceptImage, State.withParse, State.withHold, State.withUnit, State.withLrx_withLrx,
      State.withLrx_lrx, htk]
    rw [OffLink.beginImage n]
    by_cases hz : ds.length = 0
    · simp only [hz, decide_true, if_true]
      rw [OffLink.laneUnitEnd n]
      have : (s.beginImage kind n sym).laneUnitEnd n = ((s.beginImage kind n sym).laneUnitEnd n).withLrx
          ((s.beginImage kind n sym).laneUnitEnd n).lrx := rfl
      rw [this, State.withLrx_withLrx, (LaneFrame.laneUnitEnd n _).lrx, fr.lrx, h.1]
    · simp only [hz, decide_false, if_false, Bool.false_eq_true, u']
  rw [e]
  by_cases hz : ds = []
  · subst hz; rfl
  · have : ds.length ≠ 0 := by simpa using hz
    rw [if_neg this]
    apply State.lane_all _ u' ⟨fr.resetLine.trans aw.1, fr.startUp.trans aw.2⟩ (fr.lrx.trans h.1)
    · intro sym hs
      obtain ⟨d, -, rfl⟩ := List.mem_map.1 hs
      simp
    · rfl
    · simp [u']
    · simpa using hz

/-! ## Strays (R2, R140) -/

/-- The data symbols of a unit whose data LRX drops (R136). -/
theorem State.drop_all (syms : List Symbol) (u : CurrentUnit) (aw : s.awake) (hl : s.lrx = {})
    (ht : ∀ sym ∈ syms, isTag sym = false) (hd : u.dest = .drop) (hr : u.remaining = syms.length) (h0 : syms ≠ []) :
    (s.parsing (.body u) [] false).arriveAll syms = s := by
  induction syms generalizing u with
  | nil => exact absurd rfl h0
  | cons sym rest ih =>
    obtain ⟨cls, tag, hi, lo, rem, dest⟩ := u
    obtain rfl : dest = .drop := hd
    obtain rfl : rem = rest.length + 1 := hr
    rw [State.arriveAll_cons, State.arrive_parsing s _ _ _ _ aw]
    have e : (s.parsing (.body ⟨cls, tag, hi, lo, rest.length + 1, .drop⟩) [] false).takeSymbol sym =
        s.parsing (if rest.length = 0 then .watch else .body ⟨cls, tag, hi, lo, rest.length, .drop⟩) [] false := by
      simp [State.takeSymbol, ht sym (by simp), State.parsing, State.takeBody, State.withUnit, State.withParse]
    rw [e]
    by_cases hz : rest = []
    · subst hz
      exact (s.parsing_of_linkIdle ⟨hl, aw⟩).symm
    · have : rest.length ≠ 0 := by simpa using hz
      rw [if_neg this]
      exact ih _ (fun x hx => ht x (by simp [hx])) rfl rfl hz

/-- R2, R140, R153: a whole image unit that is a stray is counted, and nothing else changes. -/
theorem State.arriveImage_stray {kind : BitVec 3} (hk : imageKind kind) (h : s.linkIdle)
    (ha : s.partAddress ≠ broadcastAddress) (u : ImageUnit) (hw : wholeImage u) (hs : straySyms kind s u.data = true) :
    s.arriveImage kind u = s.countStray := by
  have aw : s.awake := h.2
  rw [State.arriveImage, imageSymbols, State.arrive_header _ _ _ _ h, classify_image hk _ ha]
  generalize htag : tagSymbol kind s.partAddress = tag
  have htk : tagKind tag = kind := by rw [← htag]; simp
  have hnr : kind ≠ kindRequest := imageKind_ne_request hk
  cases hd : u.data with
  | nil =>
    have hlen : u.length.toNat = 0 := by rw [← hw, hd]; rfl
    simp [State.lengthKnown, State.destOf, hlen, htk, hnr, State.finishUnit, State.parsing, State.withParse,
      State.countStray]
    rw [State.withReq, State.withLrx, ← h.1]; rfl
  | cons d ds =>
    have hlen : u.length.toNat = ds.length + 1 := by rw [← hw, hd]; rfl
    have hL : u.length ≠ 0 := by rintro e; rw [e] at hlen; simp at hlen
    rw [State.lengthKnown_own _ _ _ (.inl rfl) hL]
    simp only [htk, ne_eq, hnr, not_false_eq_true, and_true, if_true, List.map_cons, State.arriveAll_cons]
    rw [State.arrive_parsing s _ _ _ _ aw]
    rw [hd] at hs
    have e : (s.parsing (.body ⟨.own, tag, hiSymbol u.length, loSymbol u.length, u.length.toNat, .awaitLane⟩) []
          false).takeSymbol (dataByteSymbol d) =
        s.countStray.parsing (if ds.length = 0 then .watch else
          .body ⟨.own, tag, hiSymbol u.length, loSymbol u.length, ds.length, .drop⟩) [] false := by
      have hsub : u.length.toNat - 1 = ds.length := by omega
      by_cases hbad : (d.bad || decide (3 < d.value.toNat)) = true
      · simp only [State.takeSymbol, isTag_dataByteSymbol, Bool.false_eq_true, if_false, State.parsing,
          State.withLrx_lrx, State.takeBody, State.takeLaneSymbol, parityError_dataByteSymbol,
          symValue_dataByteSymbol, hbad, if_true, hsub]
        rfl
      · have hstray : isStray kind (s.lane (Fin.ofNat 4 d.value.toNat)) = true := by
          simp only [straySyms, Bool.or_eq_true] at hs hbad
          rcases hs with hs | hs
          · exact absurd hs hbad
          · exact hs
        have hidle : (s.lane (Fin.ofNat 4 d.value.toNat)).state = .idle ∧ kind ≠ kindItemOpen := by
          simpa [isStray] using hstray
        have href : laneRefuses kind (s.lane (Fin.ofNat 4 d.value.toNat)) = false := by
          rw [laneRefuses, hidle.1]; simp
        simp only [State.takeSymbol, isTag_dataByteSymbol, Bool.false_eq_true, if_false, State.parsing,
          State.withLrx_lrx, State.takeBody, State.takeLaneSymbol, parityError_dataByteSymbol,
          symValue_dataByteSymbol, hsub, State.present, htk, hnr, State.presentImage]
        rw [if_neg hbad, if_neg (fun x => hidle.2 x.1), if_neg (by exact Bool.eq_false_iff.1 href),
          if_pos (by exact hstray)]
        rfl
    rw [e]
    have hl' : s.countStray.lrx = {} := h.1
    by_cases hz : ds = []
    · subst hz
      exact (s.countStray.parsing_of_linkIdle ⟨hl', aw⟩).symm
    · have : ds.length ≠ 0 := by simpa using hz
      rw [if_neg this]
      exact State.drop_all _ _ aw hl' (fun sym hs => by obtain ⟨d, -, rfl⟩ := List.mem_map.1 hs; simp) rfl (by simp)
        (by simpa using hz)

/-! ## Holds (R141, R143) -/

theorem State.arrive_blocked (sym : Symbol) (hr : s.resetLine = false) (hf : s.lrxFree = false) :
    s.arrive sym = s.backlog [sym] := by
  unfold State.arrive State.backlog
  rw [hr, if_neg (by simp)]
  by_cases h : s.lrx.fifo.length < fifoPlaces
  · have h1 : 1 - (fifoPlaces - s.lrx.fifo.length) = 0 := by omega
    have h2 : [sym].take (fifoPlaces - s.lrx.fifo.length) = [sym] := List.take_of_length_le (by simp; omega)
    rw [if_pos h, h2]
    simp only [List.length_singleton, h1, Function.iterate_zero, id]
    have hf' : (s.withLrx { s.lrx with fifo := s.lrx.fifo ++ [sym] }).lrxFree = false := hf
    simp only [State.drain]
    cases hn : (s.withLrx { s.lrx with fifo := s.lrx.fifo ++ [sym] }).lrx.fifo.length with
    | zero => rfl
    | succ k => simp [State.drainFifo, hf']
  · have h1 : fifoPlaces - s.lrx.fifo.length = 0 := by omega
    rw [if_neg h, h1]
    simp
    rfl

theorem State.backlog_lrxFree (syms : List Symbol) :
    (s.backlog syms).lrxFree = s.lrxFree ∧ (s.backlog syms).resetLine = s.resetLine ∧
      (s.backlog syms).lrx = { s.lrx with fifo := s.lrx.fifo ++ syms.take (fifoPlaces - s.lrx.fifo.length) } := by
  have key : ∀ (k : Nat) (t : State), ((State.countRxOverrun)^[k] t).lrxFree = t.lrxFree ∧
      ((State.countRxOverrun)^[k] t).resetLine = t.resetLine ∧ ((State.countRxOverrun)^[k] t).lrx = t.lrx := by
    intro k
    induction k with
    | zero => intro t; exact ⟨rfl, rfl, rfl⟩
    | succ k ih => intro t; rw [Function.iterate_succ_apply]; exact ih _
  exact key _ _

theorem State.countRxOverrun_withLrx (k : Nat) (v : Lrx) :
    (State.countRxOverrun)^[k] (s.withLrx v) = ((State.countRxOverrun)^[k] s).withLrx v := by
  induction k generalizing s with
  | zero => rfl
  | succ k ih => rw [Function.iterate_succ_apply, Function.iterate_succ_apply, ← ih]; rfl

/-- R143: the symbols that arrive while LRX is not free. -/
theorem State.arriveAll_blocked (syms : List Symbol) (hr : s.resetLine = false) (hf : s.lrxFree = false) :
    s.arriveAll syms = s.backlog syms := by
  induction syms generalizing s with
  | nil => simp [State.backlog]; rfl
  | cons sym rest ih =>
    rw [State.arriveAll_cons, State.arrive_blocked sym hr hf, ih ((s.backlog_lrxFree [sym]).2.1.trans hr)
      ((s.backlog_lrxFree [sym]).1.trans hf)]
    have h := (s.backlog_lrxFree [sym]).2.2
    unfold State.backlog
    rw [show (State.countRxOverrun)^[[sym].length - (fifoPlaces - s.lrx.fifo.length)]
      (s.withLrx { s.lrx with fifo := s.lrx.fifo ++ [sym].take (fifoPlaces - s.lrx.fifo.length) }) = s.backlog [sym] from rfl,
      h]
    simp only [State.backlog, State.countRxOverrun_withLrx, State.withLrx_withLrx]
    rw [← Function.iterate_add_apply]
    by_cases hl : s.lrx.fifo.length < fifoPlaces
    · obtain ⟨k, hk⟩ : ∃ k, fifoPlaces - s.lrx.fifo.length = k + 1 := ⟨fifoPlaces - s.lrx.fifo.length - 1, by omega⟩
      have : fifoPlaces - (s.lrx.fifo.length + 1) = k := by omega
      simp [hk, this]
    · have h0 : fifoPlaces - s.lrx.fifo.length = 0 := by omega
      simp [h0]

/-- R2, R7, R8, R141: a whole image unit that is refused is held, and what follows its lane symbol waits. -/
theorem State.arriveImage_held {kind : BitVec 3} (hk : imageKind kind) (h : s.linkIdle)
    (ha : s.partAddress ≠ broadcastAddress) (u : ImageUnit) (hw : wholeImage u) (d : DataByte) (ds : List DataByte)
    (hd : u.data = d :: ds) (hb : d.bad = false) (hn : d.value.toNat = n.val)
    (hr : laneRefuses kind (s.lane n) = true ∧ ((s.lane n).state = .closing ∨ s.req.bootRunning = none) ∨
      (kind = kindItemOpen ∧ s.req.bootRunning.isSome))
    (hi : (s.lane n).state ≠ .closing → s.req.bootRunning = none → ((s.supersede n).lane n).state ≠ .idle) :
    s.arriveImage kind u =
      ((s.refuseImage n).withHold (some (heldImage kind s.partAddress u.length (dataByteSymbol d) ds.length))).backlog
        (ds.map dataByteSymbol) := by
  have aw : s.awake := h.2
  have hlen : u.length.toNat = ds.length + 1 := by rw [← hw, hd]; rfl
  have hL : u.length ≠ 0 := by rintro e; rw [e] at hlen; simp at hlen
  rw [State.arriveImage, imageSymbols, State.arrive_header _ _ _ _ h, classify_image hk _ ha,
    State.lengthKnown_own _ _ _ (.inl rfl) hL, hd]
  have hnr : kind ≠ kindRequest := imageKind_ne_request hk
  simp only [tagKind_tagSymbol, ne_eq, hnr, not_false_eq_true, and_true, if_true, List.map_cons, State.arriveAll_cons]
  rw [State.arrive_parsing s _ _ _ _ aw]
  have hsub : u.length.toNat - 1 = ds.length := by omega
  have e : (s.parsing (.body ⟨.own, tagSymbol kind s.partAddress, hiSymbol u.length, loSymbol u.length,
        u.length.toNat, .awaitLane⟩) [] false).takeSymbol (dataByteSymbol d) =
      (s.refuseImage n).withHold (some (heldImage kind s.partAddress u.length (dataByteSymbol d) ds.length)) := by
    simp only [State.takeSymbol, isTag_dataByteSymbol, Bool.false_eq_true, if_false, State.parsing,
      State.withLrx_lrx, State.takeBody, State.takeLaneSymbol, parityError_dataByteSymbol,
      symValue_dataByteSymbol, hb, hsub, State.present, tagKind_tagSymbol, hnr, State.presentImage, hn, ofNat_lane]
    rw [if_neg (by simp; omega)]
    simp only [State.withParse, State.withHold, State.withLrx_withLrx, State.withLrx_lrx]
    have hs : ∀ v, (s.withLrx v).supersede n = (s.supersede n).withLrx v := OffLink.supersede n s
    have hl0 : s.lrx = {} := h.1
    by_cases hbr : s.req.bootRunning.isSome = true
    · have e1 : s.refuseImage n = s := by simp [State.refuseImage, hbr]
      rw [e1, hl0]
      by_cases ho : kind = kindItemOpen
      · exact (if_pos ⟨ho, hbr⟩).trans rfl
      · have hc : (s.lane n).state = .closing := by
          rcases hr with ⟨-, hr | hr⟩ | ⟨hr, -⟩
          · exact hr
          · rw [hr] at hbr; simp at hbr
          · exact absurd hr ho
        have href : laneRefuses kind (s.lane n) = true := by simp [laneRefuses, hc]
        exact (if_neg (fun x => ho x.1)).trans ((if_pos href).trans ((if_pos hc).trans rfl))
    · have href : laneRefuses kind (s.lane n) = true := by
        rcases hr with ⟨hr, -⟩ | ⟨-, hr⟩
        · exact hr
        · exact absurd hr hbr
      refine (if_neg (fun x => hbr x.2)).trans ((if_pos href).trans ?_)
      by_cases hc : (s.lane n).state = .closing
      · have e1 : s.refuseImage n = s := by simp [State.refuseImage, hc]
        rw [e1]
        exact (if_pos hc).trans (by rw [hl0]; rfl)
      · have e1 : s.refuseImage n = s.supersede n := by simp [State.refuseImage, hc, hbr]
        rw [e1]
        refine (if_neg hc).trans ?_
        unfold State.supersedeImage State.withHold
        dsimp only
        simp only [State.withLrx_withLrx, hs, State.withLrx_lane, State.withLrx_lrx]
        rw [if_neg (hi hc (by simpa using hbr)), (LaneFrame.supersede n s).lrx, hl0]; rfl
  rw [e]
  have fr : LaneFrame n s (s.refuseImage n) := by
    unfold State.refuseImage
    split
    · exact .refl n s
    · exact .supersede n s
  exact State.arriveAll_blocked _ (fr.resetLine.trans aw.1) (by simp [State.lrxFree])

/-- R7, R8, R141: a whole ITEM OPEN that supersedes an item whose closing output finds room at once is taken in the same
event, as by the lane that the supersede leaves IDLE. -/
theorem State.arriveImage_superseded (h : s.linkIdle) (ha : s.partAddress ≠ broadcastAddress) (u : ImageUnit)
    (hw : wholeImage u) (d : DataByte) (ds : List DataByte) (hd : u.data = d :: ds) (hb : d.bad = false)
    (hn : d.value.toNat = n.val) (hboot : s.req.bootRunning = none)
    (hs : (s.lane n).state = .opened ∨ (s.lane n).state = .discard) (hi : ((s.supersede n).lane n).state = .idle) :
    s.arriveImage kindItemOpen u = (s.supersede n).arriveImage kindItemOpen u := by
  have fr := LaneFrame.supersede n s
  have ht : (s.supersede n).linkIdle := ⟨fr.lrx.trans h.1, fr.resetLine.trans h.2.1, fr.startUp.trans h.2.2⟩
  have hta : (s.supersede n).partAddress ≠ broadcastAddress := by rw [fr.partAddress]; exact ha
  have hk : imageKind kindItemOpen := .inl rfl
  have hlen : u.length.toNat = ds.length + 1 := by rw [← hw, hd]; rfl
  have hL : u.length ≠ 0 := by rintro e; rw [e] at hlen; simp at hlen
  have hnr : kindItemOpen ≠ kindRequest := imageKind_ne_request hk
  have hsub : u.length.toNat - 1 = ds.length := by omega
  rw [State.arriveImage, imageSymbols, State.arrive_header _ _ _ _ h, classify_image hk _ ha,
    State.lengthKnown_own _ _ _ (.inl rfl) hL, State.arriveImage, imageSymbols, State.arrive_header _ _ _ _ ht,
    classify_image hk _ hta, State.lengthKnown_own _ _ _ (.inl rfl) hL, hd, fr.partAddress]
  simp only [tagKind_tagSymbol, ne_eq, hnr, not_false_eq_true, and_true, if_true, List.map_cons, State.arriveAll_cons]
  rw [State.arrive_parsing s _ _ _ _ h.2, State.arrive_parsing _ _ _ _ _ ht.2]
  congr 1
  have hbt : (s.supersede n).req.bootRunning = none := by rw [fr.req]; exact hboot
  have hoff : ∀ v, (s.withLrx v).supersede n = (s.supersede n).withLrx v := OffLink.supersede n s
  have href : laneRefuses kindItemOpen (s.lane n) = true := by
    rcases hs with e | e <;> simp [laneRefuses, e]
  have hc : (s.lane n).state ≠ .closing := by rcases hs with e | e <;> simp [e]
  have hrt : laneRefuses kindItemOpen ((s.supersede n).lane n) = false := by simp [laneRefuses, hi]
  have hst : isStray kindItemOpen ((s.supersede n).lane n) = false := by simp [isStray]
  simp only [State.takeSymbol, isTag_dataByteSymbol, Bool.false_eq_true, if_false, State.parsing, State.withLrx_lrx,
    State.takeBody, State.takeLaneSymbol, parityError_dataByteSymbol, symValue_dataByteSymbol, hb, hsub, State.present,
    tagKind_tagSymbol, hnr, State.presentImage, hn, ofNat_lane, State.withParse, State.withLrx_withLrx,
    State.withLrx_lane, State.withLrx_req, hboot, hbt, Option.isSome_none, and_false, href, hc, hrt, hst, if_true,
    State.supersedeImage, State.withHold, hoff, hi]
  rw [if_neg (by simp; omega), if_neg (by simp; omega)]
  simp only [State.acceptImage, State.withHold, State.withLrx_withLrx, State.withLrx_lrx]

/-! ## A part with straps 31 forwards image units (R138, R144) -/

/-- R138: a part with straps 31 takes no image unit. -/
theorem classify_image_31 {kind : BitVec 3} (hk : imageKind kind) :
    classify broadcastAddress (tagSymbol kind broadcastAddress) = .transit := by
  rcases hk with rfl | rfl | rfl <;> decide +kernel

theorem OffLink.endTransit : OffLink State.endTransit := fun s v => by
  unfold State.endTransit
  by_cases h : s.transit = []
  · rw [if_pos h, if_pos (by exact h)]
    change (match s.etx.current with
      | some { what := .transit _, .. } => (s.withLrx v).withEtx { s.etx with current := none }
      | _ => s.withLrx v) = _
    cases hc : s.etx.current with
    | none => rfl
    | some e => obtain ⟨w, k⟩ := e; cases w <;> rfl
  · rw [if_neg h, if_neg (by exact h)]; rfl

theorem State.writeHeader_withLrx (tag hi lo : Symbol) (v : Lrx) :
    (s.withLrx v).writeHeader tag hi lo = ((s.writeHeader tag hi lo).1.withLrx v, (s.writeHeader tag hi lo).2) := by
  change (if s.transit.length + 3 ≤ transitPlaces then _ else _) = _
  unfold State.writeHeader
  split <;> rfl

theorem State.writeData_withLrx (sym : Symbol) (w : Bool) (v : Lrx) :
    (s.withLrx v).writeData sym w = ((s.writeData sym w).1.withLrx v, (s.writeData sym w).2) := by
  unfold State.writeData
  cases w with
  | false => rfl
  | true =>
    simp only [if_true]
    by_cases h : s.transit.length < transitPlaces
    · rw [if_pos h, if_pos (by exact h)]; rfl
    · rw [if_neg h, if_neg (by exact h), OffLink.endTransit s v]; rfl

/-- What writing into the Transit FIFO leaves alone. -/
structure TransitFrame (s t : State) : Prop where
  pending : t.pending = s.pending
  resetLine : t.resetLine = s.resetLine
  dstop : t.dstop = s.dstop
  startUp : t.startUp = s.startUp
  partAddress : t.partAddress = s.partAddress
  lrx : t.lrx = s.lrx
  lanes : t.lanes = s.lanes
  pool : t.pool = s.pool
  replies : t.replies = s.replies
  etx : t.etx = { s.etx with current := t.etx.current }
  tables : t.tables = s.tables
  req : t.req = { s.req with txOverrun := t.req.txOverrun, events := t.req.events }
  boot : t.boot = s.boot
  time : t.time = s.time
  dtx : t.dtx = s.dtx
  bus : t.bus = s.bus
  orderIndex : t.orderIndex = s.orderIndex

theorem TransitFrame.refl (s : State) : TransitFrame s s := by constructor <;> rfl

theorem TransitFrame.trans {s t u : State} (h : TransitFrame s t) (h' : TransitFrame t u) : TransitFrame s u where
  pending := h'.pending.trans h.pending
  resetLine := h'.resetLine.trans h.resetLine
  dstop := h'.dstop.trans h.dstop
  startUp := h'.startUp.trans h.startUp
  partAddress := h'.partAddress.trans h.partAddress
  lrx := h'.lrx.trans h.lrx
  lanes := h'.lanes.trans h.lanes
  pool := h'.pool.trans h.pool
  replies := h'.replies.trans h.replies
  etx := by rw [h'.etx, h.etx]
  tables := h'.tables.trans h.tables
  req := by rw [h'.req, h.req]
  boot := h'.boot.trans h.boot
  time := h'.time.trans h.time
  dtx := h'.dtx.trans h.dtx
  bus := h'.bus.trans h.bus
  orderIndex := h'.orderIndex.trans h.orderIndex

theorem TransitFrame.endTransit (s : State) : TransitFrame s s.endTransit := by
  unfold State.endTransit
  split
  · split <;> constructor <;> rfl
  · constructor <;> rfl

theorem TransitFrame.countTransitOverrun (k : Nat) (s : State) : TransitFrame s (s.countTransitOverrun k) := by
  constructor <;> rfl

theorem TransitFrame.writeHeader (tag hi lo : Symbol) (s : State) : TransitFrame s (s.writeHeader tag hi lo).1 := by
  unfold State.writeHeader
  split <;> constructor <;> rfl

theorem TransitFrame.writeData (sym : Symbol) (w : Bool) (s : State) : TransitFrame s (s.writeData sym w).1 := by
  unfold State.writeData
  split
  · split
    · constructor <;> rfl
    · exact (TransitFrame.endTransit s).trans (.countTransitOverrun 1 _)
  · exact .countTransitOverrun 1 s

theorem TransitFrame.writeAll (syms : List Symbol) (w : Bool) (s : State) : TransitFrame s (s.writeAll syms w).1 := by
  induction syms generalizing s w with
  | nil => exact .refl s
  | cons sym rest ih => exact (TransitFrame.writeData sym w s).trans (ih _ _)

theorem TransitFrame.writeCopySymbols (copy : List Symbol) (cut : Bool) (s : State) :
    TransitFrame s (s.writeCopySymbols copy cut) := by
  unfold State.writeCopySymbols
  split
  · dsimp only
    split
    · exact ((TransitFrame.writeHeader _ _ _ s).trans (.writeAll _ _ _)).trans (.endTransit _)
    · exact (TransitFrame.writeHeader _ _ _ s).trans (.writeAll _ _ _)
  · exact .refl s

theorem State.countTransitOverrun_add (j k : Nat) (s : State) :
    (s.countTransitOverrun j).countTransitOverrun k = s.countTransitOverrun (j + k) := by
  simp only [State.countTransitOverrun, State.withReq, raiseCounter, State.mk.injEq, RequestUnit.mk.injEq, true_and, and_true]
  omega

/-- R145: the data symbols of a unit that is no longer written are counted, one by one. -/
theorem State.writeAll_lost (syms : List Symbol) (s : State) (h : syms ≠ []) :
    s.writeAll syms false = (s.countTransitOverrun syms.length, false) := by
  induction syms generalizing s with
  | nil => exact absurd rfl h
  | cons sym rest ih =>
    have e : s.writeData sym false = (s.countTransitOverrun 1, false) := rfl
    rw [State.writeAll, e]
    by_cases hr : rest = []
    · subst hr; rfl
    · rw [ih _ hr, State.countTransitOverrun_add, Nat.add_comm]; rfl

theorem markLast_append (ts : List TransitSymbol) (t : TransitSymbol) :
    markLast (ts ++ [t]) = ts ++ [{ t with endMark := true }] := by
  induction ts with
  | nil => rfl
  | cons a rest ih =>
    cases rest with
    | nil => rfl
    | cons b rest' => exact congrArg (a :: ·) ih

/-- R144, R145: what the data symbols of a written unit leave, the FIFO holding something. -/
theorem State.writeAll_written (syms : List Symbol) (s : State) (h0 : s.transit ≠ []) (hl : s.transit.length ≤ 4096) :
    s.writeAll syms true =
      if s.transit.length + syms.length ≤ 4096 then
        (s.withTransit (s.transit ++ syms.map fun y => ⟨y, false⟩), true)
      else
        ((s.withTransit (markLast (s.transit ++ (syms.take (4096 - s.transit.length)).map fun y =>
          ⟨y, false⟩))).countTransitOverrun (syms.length - (4096 - s.transit.length)), false) := by
  induction syms generalizing s with
  | nil => rw [if_pos (by simpa using hl)]; simp [State.writeAll, State.withTransit]
  | cons sym rest ih =>
    rw [State.writeAll]
    by_cases hf : s.transit.length < 4096
    · have e : s.writeData sym true = (s.withTransit (s.transit ++ [⟨sym, false⟩]), true) := by
        simp [State.writeData, transitPlaces, hf]
      rw [e, ih _ (by simp [State.withTransit]) (by simp [State.withTransit]; omega)]
      have hc : (s.withTransit (s.transit ++ [⟨sym, false⟩])).transit.length + rest.length ≤ 4096 ↔
          s.transit.length + (sym :: rest).length ≤ 4096 := by simp [State.withTransit]; omega
      by_cases hh : s.transit.length + (sym :: rest).length ≤ 4096
      · rw [if_pos (hc.2 hh), if_pos hh]; simp [State.withTransit]
      · rw [if_neg (fun x => hh (hc.1 x)), if_neg hh]
        have e1 : 4096 - s.transit.length = 4096 - (s.transit.length + 1) + 1 := by omega
        simp only [State.withTransit, List.length_append, List.length_cons, List.length_nil, e1, List.take_succ_cons,
          List.map_cons, List.append_assoc, List.singleton_append, Nat.zero_add, Nat.add_sub_add_right]
    · have hf' : s.transit.length = 4096 := by omega
      have e : s.writeData sym true = ((s.withTransit (markLast s.transit)).countTransitOverrun 1, false) := by
        simp [State.writeData, transitPlaces, hf, State.endTransit, h0]
      rw [e, if_neg (by simp; omega)]
      by_cases hr : rest = []
      · subst hr; simp [State.writeAll, hf']
      · rw [State.writeAll_lost rest _ hr, State.countTransitOverrun_add]
        simp [hf', Nat.add_comm]

/-- R142, R144, R145: what writing a whole unit does, in one equation. -/
theorem State.writeCopySymbols_eq (copy : List Symbol) (cut : Bool) (s : State) :
    s.writeCopySymbols copy cut = s.transitWritten copy cut := by
  have marked : ∀ (k : Nat) (syms : List Symbol), k = syms.length →
      (syms.mapIdx fun i y => (⟨y, true && decide (i + 1 = k)⟩ : TransitSymbol)) =
        markLast (syms.map fun y => ⟨y, false⟩) := by
    rintro k syms rfl
    rcases List.eq_nil_or_concat syms with rfl | ⟨init, last, rfl⟩
    · rfl
    · rw [List.concat_eq_append, List.map_append, List.map_singleton, markLast_append, List.mapIdx_append]
      congr 1
      · apply List.ext_getElem (by simp)
        intro i h1 h2
        simp only [List.getElem_mapIdx, List.getElem_map, TransitSymbol.mk.injEq, true_and, Bool.true_and]
        simp at h1 h2 ⊢
        omega
      · simp
  have plain : ∀ (k : Nat) (syms : List Symbol),
      (syms.mapIdx fun i y => (⟨y, false && decide (i + 1 = k)⟩ : TransitSymbol)) = syms.map fun y => ⟨y, false⟩ := by
    intro k syms
    apply List.ext_getElem (by simp)
    intro i h1 h2
    simp
  have front : ∀ (a b : List TransitSymbol), b ≠ [] → markLast (a ++ b) = a ++ markLast b := by
    intro a b hb
    rcases List.eq_nil_or_concat b with rfl | ⟨init, last, rfl⟩
    · exact absurd rfl hb
    · rw [List.concat_eq_append, ← List.append_assoc, markLast_append, markLast_append, List.append_assoc]
  unfold State.writeCopySymbols State.transitWritten
  rcases copy with _ | ⟨tag, _ | ⟨hi, _ | ⟨lo, data⟩⟩⟩
  · rfl
  · rfl
  · rfl
  have h3 : ¬(tag :: hi :: lo :: data).length < 3 := by simp
  simp only [if_neg h3]
  by_cases hr : s.transit.length + 3 ≤ 4096
  · have eh : s.writeHeader tag hi lo = (s.withTransit (s.transit ++ [⟨tag, false⟩, ⟨hi, false⟩, ⟨lo, false⟩]), true) := by
      simp [State.writeHeader, transitPlaces, hr]
    rw [eh]
    dsimp only
    rw [State.writeAll_written _ _ (by simp [State.withTransit]) (by simp [State.withTransit]; omega)]
    have hl : (s.withTransit (s.transit ++ [⟨tag, false⟩, ⟨hi, false⟩, ⟨lo, false⟩])).transit.length =
        s.transit.length + 3 := by simp [State.withTransit]
    rw [hl]
    by_cases hd : s.transit.length + 3 + data.length ≤ 4096
    · have hfit : (tag :: hi :: lo :: data).length ≤ 4096 - s.transit.length := by simp only [List.length_cons]; omega
      rw [if_pos hd, if_pos hfit, List.take_length]
      cases cut with
      | false => rw [plain]; simp [State.withTransit]
      | true =>
        rw [marked _ _ rfl, ← front _ _ (by simp)]
        simp [State.withTransit, State.endTransit]
    · have hfit : ¬(tag :: hi :: lo :: data).length ≤ 4096 - s.transit.length := by simp only [List.length_cons]; omega
      have h3 : 3 ≤ 4096 - s.transit.length := by omega
      rw [if_neg hd, if_neg hfit, if_pos h3, marked _ _ (by simp; omega), ← front _ _ (by simp; omega)]
      have e1 : 4096 - s.transit.length = 4096 - (s.transit.length + 3) + 1 + 1 + 1 := by omega
      simp only [Bool.and_false, Bool.false_eq_true, if_false, e1, List.take_succ_cons, List.length_cons, List.map_cons,
        Nat.add_sub_add_right, State.withTransit, List.append_assoc, List.cons_append, List.nil_append]
      rfl
  · have eh : s.writeHeader tag hi lo = (s.countTransitOverrun 3, false) := by
      simp [State.writeHeader, transitPlaces, hr]
    have hfit : ¬(tag :: hi :: lo :: data).length ≤ 4096 - s.transit.length := by simp only [List.length_cons]; omega
    have h3 : ¬3 ≤ 4096 - s.transit.length := by omega
    rw [eh, if_neg hfit, if_neg h3]
    dsimp only
    by_cases hd : data = []
    · subst hd; simp [State.writeAll]; rfl
    · rw [State.writeAll_lost _ _ hd, State.countTransitOverrun_add]
      simp only [Bool.and_false, Bool.false_eq_true, if_false, List.length_cons, Nat.add_comm 3]
      rfl

/-- The data symbols of a whole transit unit (R136, R144, R145). -/
theorem State.transit_all (syms : List Symbol) (u : CurrentUnit) (w : Bool) (aw : s.awake) (hl : s.lrx = {})
    (ht : ∀ sym ∈ syms, isTag sym = false) (hd : u.dest = .transit w) (hr : u.remaining = syms.length)
    (h0 : syms ≠ []) : (s.parsing (.body u) [] false).arriveAll syms = (s.writeAll syms w).1 := by
  induction syms generalizing s u w with
  | nil => exact absurd rfl h0
  | cons sym rest ih =>
    obtain ⟨cls, tag, hi, lo, rem, dest⟩ := u
    obtain rfl : dest = .transit w := hd
    obtain rfl : rem = rest.length + 1 := hr
    have fr := TransitFrame.writeData sym w s
    rw [State.arriveAll_cons, State.arrive_parsing s _ _ _ _ aw]
    have e : (s.parsing (.body ⟨cls, tag, hi, lo, rest.length + 1, .transit w⟩) [] false).takeSymbol sym =
        (s.writeData sym w).1.parsing (if rest.length = 0 then .watch else
          .body ⟨cls, tag, hi, lo, rest.length, .transit (s.writeData sym w).2⟩) [] false := by
      simp only [State.takeSymbol, ht sym (by simp), Bool.false_eq_true, if_false, State.parsing, State.withLrx_lrx,
        State.takeBody, Nat.add_sub_cancel, State.writeData_withLrx, State.withUnit, State.withParse,
        State.withLrx_withLrx]
    rw [e]
    by_cases hz : rest = []
    · subst hz
      exact ((s.writeData sym w).1.parsing_of_linkIdle
        ⟨fr.lrx.trans hl, fr.resetLine.trans aw.1, fr.startUp.trans aw.2⟩).symm
    · have : rest.length ≠ 0 := by simpa using hz
      rw [if_neg this]
      exact ih _ _ ⟨fr.resetLine.trans aw.1, fr.startUp.trans aw.2⟩ (fr.lrx.trans hl)
        (fun x hx => ht x (by simp [hx])) rfl rfl hz

/-- R138, R144, R145: a part with straps 31 forwards a whole image unit. -/
theorem State.arriveImage_31 {kind : BitVec 3} (hk : imageKind kind) (h : s.linkIdle)
    (ha : s.partAddress = broadcastAddress) (u : ImageUnit) (hw : wholeImage u) :
    s.arriveImage kind u = s.writeCopySymbols (imageSymbols kind broadcastAddress u) false := by
  have aw : s.awake := h.2
  rw [State.arriveImage, imageSymbols, State.arrive_header _ _ _ _ h, ha, classify_image_31 hk]
  have e0 : imageSymbols kind broadcastAddress u =
      tagSymbol kind broadcastAddress :: hiSymbol u.length :: loSymbol u.length :: u.data.map dataByteSymbol := by
    rw [imageSymbols, lengthSymbols_eq]; rfl
  rw [e0]
  generalize tagSymbol kind broadcastAddress = tag
  have fr := TransitFrame.writeHeader tag (hiSymbol u.length) (loSymbol u.length) s
  simp only [State.writeCopySymbols, Bool.false_and, Bool.false_eq_true, if_false]
  have hidle : (s.writeHeader tag (hiSymbol u.length) (loSymbol u.length)).1.linkIdle :=
    ⟨fr.lrx.trans h.1, fr.resetLine.trans aw.1, fr.startUp.trans aw.2⟩
  by_cases hz : u.data = []
  · have hlen : u.length.toNat = 0 := by rw [← hw, hz]; rfl
    rw [hz]
    simp only [List.map_nil, State.arriveAll_nil, State.writeAll, State.lengthKnown, State.destOf, lengthOf_hi_lo, hlen,
      if_true, State.parsing, State.writeHeader_withLrx, State.finishUnit, Bool.false_and, Bool.false_eq_true, if_false,
      State.withParse, State.withLrx_withLrx]
    exact (State.parsing_of_linkIdle _ hidle).symm
  · have hlen : u.length.toNat = u.data.length := hw.symm
    have hne : u.data.length ≠ 0 := by simpa using hz
    have e : (s.parsing (.header .transit tag (some (hiSymbol u.length))) [] false).lengthKnown .transit tag
        (hiSymbol u.length) (loSymbol u.length) =
        (s.writeHeader tag (hiSymbol u.length) (loSymbol u.length)).1.parsing
          (.body ⟨.transit, tag, hiSymbol u.length, loSymbol u.length, u.data.length,
            .transit (s.writeHeader tag (hiSymbol u.length) (loSymbol u.length)).2⟩) [] false := by
      simp only [State.lengthKnown, State.destOf, lengthOf_hi_lo, hlen, hne, if_false, State.parsing,
        State.writeHeader_withLrx, State.withParse, State.withLrx_withLrx]
      rfl
    rw [e]
    exact State.transit_all _ _ _ hidle.2 hidle.1 (fun sym hs => by obtain ⟨d, -, rfl⟩ := List.mem_map.1 hs; simp) rfl
      (by simp) (by simpa using hz)

end Sys2Proof.Machine
end

