-- ==== Sys2Proof/Laws/Closing.lean ====
section
/-! SUPPORT. How a lane ends a unit or an item: the CLOSING wait, the entry into CLOSING, and the fold of a taken unit's
data symbols, each as one equation. -/

namespace Sys2Proof.Machine

/-! ## The CLOSING wait and the entry into CLOSING -/

/-- R19: the end of a CLOSING wait, field by field. -/
theorem State.setLane_endClosing (s : State) (n : Fin 4) (c : Lane) :
    (s.setLane n c).endClosing n =
    { s with
      lanes := s.lanes.set n (queueFinal c)
      pool := s.pool + (if c.snap.bActive then c.snap.h * c.snap.wOutB else 0)
      tables :=
        if c.snap.gActive then lowerInUse s.tables (recordTone (snapRecord c.snap)) else s.tables
      req :=
        { s.req with
          itemsCompleted := s.req.itemsCompleted.set n ((s.req.itemsCompleted[n] + 1) % 4294967296) } } := by
  unfold State.endClosing
  rw [State.setLane_lane_same, State.setLane_setLane]
  unfold State.lowerTone
  by_cases hg : c.snap.gActive = true
  · rw [if_pos hg, if_pos hg]; rfl
  · rw [if_neg hg, if_neg hg]; rfl

/-- R19: a lane in CLOSING with its result composed either queues everything or waits. -/
theorem State.setLane_tryQueue (s : State) (n : Fin 4) (c : Lane) (hs : c.state = .closing)
    (hc : c.quality.composed.isSome = true) :
    (s.setLane n c).tryQueue n = s.closingTested n c := by
  unfold State.tryQueue State.closingTested
  rw [State.setLane_lane_same]
  have h2 : canQueue c = true ↔ ((finalSegments c).map segSize).sum ≤ 32768 - (c.store.map segSize).sum := by
    rw [canQueue, hs, hc]
    simp [storeUsed, storeFree, storeBytes, finalSegments]
  by_cases h : ((finalSegments c).map segSize).sum ≤ 32768 - (c.store.map segSize).sum
  · rw [if_pos (h2.2 h)]
    refine Eq.trans ?_ (if_pos h).symm
    rw [State.setLane_endClosing]; rfl
  · rw [if_neg (fun k => h (h2.1 k))]
    exact (if_neg h).symm

theorem enterClosing_composed (t : Vector Byte 256) (n : Fin 4) (l : Lane) (h : l.state = .opened ∨ l.state = .discard) :
    (enterClosing t n l).state = .closing ∧ (enterClosing t n l).quality.composed.isSome = true ∧
    enterClosing t n l = (if l.state = .opened then closingWork t n l else compose n { l with state := .closing }) := by
  rcases h with h | h <;> simp only [enterClosing, h]
  · have e : ∀ m : Lane, (compose n m).state = m.state := fun _ => rfl
    refine ⟨?_, rfl, by simp⟩
    simp only [closingWork, e]
    have f1 : ∀ m : Lane, (finishGroup n m).state = m.state := by intro m; unfold finishGroup; split <;> rfl
    have f2 : ∀ m : Lane, (finishBand n m).state = m.state := by intro m; unfold finishBand; split <;> rfl
    have tb : ∀ k r (m : Lane), (takeBRow n k r m).1.state = m.state := by
      intro k r m; unfold takeBRow; split
      · dsimp only; split <;> rfl
      · rfl
    have tg : ∀ t k r (m : Lane), (takeGRow t n k r m).1.state = m.state := by
      intro t k r m; unfold takeGRow; split
      · dsimp only; split <;> rfl
      · rfl
    have f3 : ∀ m : Lane, (finishG t n m).state = m.state := by
      intro m; unfold finishG; split
      · rfl
      · split
        · rename_i h; have := congrArg (fun p => p.1.state) h; simp only at this; rw [← this, tg]
        · rename_i h; have := congrArg (fun p => p.1.state) h; simp only at this; simp only; rw [← this, tg]
    have f4 : ∀ m : Lane, (finishB n m).state = m.state := by
      intro m; unfold finishB; split
      · rfl
      · split
        · rename_i h; have := congrArg (fun p => p.1.state) h; simp only at this; rw [← this, tb]
        · rename_i h; have := congrArg (fun p => p.1.state) h; simp only at this; simp only; rw [← this, tb]
    rw [f1, f2, f3, f4]
  · exact ⟨rfl, rfl, by simp⟩

/-- R18, R19: the end of an item of a lane in OPEN or DISCARD. -/
theorem State.setLane_closeLane (s : State) (n : Fin 4) (l : Lane) (h : l.state = .opened ∨ l.state = .discard) :
    (s.setLane n l).closeLane n = s.itemEnds n l := by
  unfold State.closeLane State.itemEnds
  rw [State.setLane_setLane, State.setLane_lane_same]
  obtain ⟨h1, h2, h3⟩ := enterClosing_composed (s.tables.tones[l.coder.gTable]) n l h
  have : (s.setLane n l).laneTone n = s.tables.tones[l.coder.gTable] := by simp [State.laneTone]
  rw [this, State.setLane_tryQueue _ _ _ h1 h2, h3]

theorem State.setLane_closingTested (s : State) (n : Fin 4) (a c : Lane) :
    (s.setLane n a).closingTested n c = s.closingTested n c := by
  unfold State.closingTested
  simp [State.setLane]

theorem State.setLane_itemEnds (s : State) (n : Fin 4) (a c : Lane) :
    (s.setLane n a).itemEnds n c = s.itemEnds n c := by
  unfold State.itemEnds; rw [State.setLane_closingTested]; rfl

/-! ## A taken unit's data symbols -/

theorem State.laneData_dropping (syms : List Symbol) (n : Fin 4) :
    ∀ s : State, (s.lane n).taking = .dropping ∨ (s.lane n).taking = .none →
    syms.foldl (fun s sym => s.laneData n sym) s = s := by
  induction syms with
  | nil => intros; rfl
  | cons a l ih =>
    intro s h
    have : s.laneData n a = s := by
      unfold State.laneData; rcases h with h | h <;> rw [h]
    rw [List.foldl_cons, this, ih s h]

theorem State.setLane_checkOpen (s : State) (n : Fin 4) (x : Taking) (X : List Symbol) :
    (s.setLane n { s.lane n with taking := x }).checkOpen n X = s.checkOpen n X := by
  unfold State.checkOpen
  simp only [State.setLane_lane_same, State.setLane_tables, State.setLane_pool, State.setLane_setLane]
  split
  · rfl
  · split
    · rfl
    · rfl

theorem State.checkOpen_dropping (s : State) (n : Fin 4) (X : List Symbol) :
    ((s.checkOpen n X).lane n).taking = .dropping := by
  unfold State.checkOpen
  dsimp only
  split
  · simp [discardItem, clearItem]
  · split
    · simp only [State.raiseTone]
      split <;> simp [openItem, clearItem]
    · simp [discardItem, clearItem]

/-- R3: an ITEM OPEN taken by a lane is checked on its first ten data symbols, or on those it has. -/
theorem State.laneData_header (syms : List Symbol) (n : Fin 4) : ∀ (s : State) (acc : List Symbol), acc.length < 10 →
    (s.lane n).taking = .header acc →
    (syms.foldl (fun s sym => s.laneData n sym) s).laneUnitEnd n =
     (let t := s.checkOpen n ((acc ++ syms).take 10); t.setLane n { t.lane n with taking := .none }) := by
  induction syms with
  | nil =>
    intro s acc ha h
    simp only [List.foldl_nil, State.laneUnitEnd, h, List.append_nil]
    rw [List.take_of_length_le (by omega)]
  | cons a l ih =>
    intro s acc ha h
    rw [List.foldl_cons]
    by_cases h9 : acc.length + 1 = 10
    · have : s.laneData n a = s.checkOpen n (acc ++ [a]) := by
        simp [State.laneData, h, h9]
      rw [this, State.laneData_dropping _ _ _ (.inl (State.checkOpen_dropping _ _ _))]
      have e : (acc ++ a :: l).take 10 = acc ++ [a] := by
        rw [List.take_append, List.take_of_length_le (by omega)]
        have : 10 - acc.length = 1 := by omega
        simp [this]
      rw [e]
      simp only [State.laneUnitEnd, State.checkOpen_dropping]
    · have : s.laneData n a = s.setLane n { s.lane n with taking := .header (acc ++ [a]) } := by
        simp [State.laneData, h, h9]
      rw [this, ih _ (acc ++ [a]) (by simp; omega) (by simp)]
      simp only [State.setLane_checkOpen, List.append_assoc, List.singleton_append]

theorem headerField_received (data : List DataByte) (o k : Nat) (h : o + k ≤ 10) :
    headerField ((data.map dataByteSymbol).take 10) o k = receivedField data o k := by
  unfold headerField receivedField
  have : o + k ≤ ((data.map dataByteSymbol).take 10).length ↔ o + k ≤ data.length := by simp; omega
  by_cases hh : o + k ≤ data.length
  · rw [if_pos (this.2 hh), if_pos hh]
    unfold fieldAt
    congr 1
    simp only [symValues, ← List.map_take, ← List.map_drop, List.map_map]
    have e : (symValue ∘ dataByteSymbol) = DataByte.value := by funext d; simp
    rw [e]
    congr 1
    rw [List.drop_take, List.take_take]
    congr 1; omega
  · rw [if_neg (fun k => hh (this.1 k)), if_neg hh]

theorem headerOf_received (data : List DataByte) :
    headerOf ((data.map dataByteSymbol).take 10) = receivedHeader data := by
  unfold headerOf receivedHeader recordedClass
  simp only [headerField_received data _ _ (by decide : 1 + 4 ≤ 10),
    headerField_received data _ _ (by decide : 5 + 1 ≤ 10), headerField_received data _ _ (by decide : 6 + 1 ≤ 10), headerField_received data _ _ (by decide : 7 + 1 ≤ 10), headerField_received data _ _ (by decide : 8 + 2 ≤ 10)]

theorem receivedField_lt (data : List DataByte) (o : Nat) :
    receivedField data o 1 < 256 ∧ receivedField data o 2 < 65536 := by
  unfold receivedField
  constructor
  · split
    · rename_i h
      have : ((data.drop o).take 1).length = 1 := by simp; omega
      match hh : (data.drop o).take 1, this with
      | [d], _ => simp [beValue]; exact d.value.isLt
    · omega
  · split
    · rename_i h
      have : ((data.drop o).take 2).length = 2 := by simp; omega
      match hh : (data.drop o).take 2, this with
      | [d, e], _ => simp [beValue]; have := d.value.isLt; have := e.value.isLt; omega
    · omega

theorem badHeader_iff (data : List DataByte) :
    badHeader ((data.map dataByteSymbol).take 10) (receivedHeader data) = true ↔ headerRefused data := by
  have h1 := (receivedField_lt data 5).1
  have h2 := (receivedField_lt data 6).1
  have h3 := (receivedField_lt data 8).2
  have e8 : (BitVec.ofNat 16 (receivedField data 8 2)).toNat = receivedField data 8 2 := by simp; omega
  have e6 : (BitVec.ofNat 8 (receivedField data 6 1)).toNat = receivedField data 6 1 := by simp; omega
  have e5 : (BitVec.ofNat 8 (receivedField data 5 1)).toNat = receivedField data 5 1 := by simp; omega
  unfold badHeader headerRefused receivedHeader
  simp only [Bool.or_eq_true, decide_eq_true_eq, List.any_eq_true, e8, e6, e5]
  have hp : (∃ x ∈ ((data.map dataByteSymbol).take 10).drop 1, parityError x = true) ↔
      ∃ d ∈ (data.take 10).drop 1, d.bad = true := by
    rw [← List.map_take, ← List.map_drop]; simp only [List.mem_map, exists_exists_and_eq_and, parityError_dataByteSymbol]
  have hl : ((data.map dataByteSymbol).take 10).length < 10 ↔ data.length < 10 := by simp
  rw [hp, hl]; simp only [or_assoc]

/-! ## The opened item -/

theorem openItem_openedLane (h : ItemHeader) (r : Record) (free : Nat) (l : Lane) :
    { openItem h r free l with taking := .none } =
        openedLane h r (itemWidthB r h.wIn.toNat) (itemWidthG r h.wIn.toNat) (itemGrant r h.wIn.toNat free) l := by
  unfold openItem openedLane
  dsimp only
  generalize itemGrant r h.wIn.toNat free = grant
  by_cases hg : r.gEnable = 1 <;> by_cases hb : r.bEnable = 1 <;> cases grant <;>
    simp [hg, hb, clearItem, laneAtReset, channelSetup, channelFor, bandCleared, bandIdle, bandSetup, coderSetup, recordTone, bandHeight] <;> rfl

theorem allocation_openItem (h : ItemHeader) (r : Record) (free : Nat) (l : Lane) :
    allocation (openItem h r free l) = (itemGrant r h.wIn.toNat free).getD 0 * itemWidthB r h.wIn.toNat := by
  unfold allocation openItem
  dsimp only
  by_cases hh : (itemGrant r h.wIn.toNat free).isSome = true
  · exact if_pos hh
  · refine (if_neg (by simpa using hh)).trans ?_
    rw [Option.not_isSome_iff_eq_none] at hh; rw [hh]; simp

/-! ## A lane's closing work and what it has taken of a unit -/

/-- The lane with another record of the unit it is taking. -/
def withTaking (x : Taking) (l : Lane) : Lane := { l with taking := x }

theorem withTaking_takeBRow (x n k r l) :
    takeBRow n k r (withTaking x l) = (withTaking x (takeBRow n k r l).1, (takeBRow n k r l).2) := by
  unfold takeBRow
  by_cases h : l.band.active = true
  · rw [if_pos (by exact h), if_pos h]; dsimp only
    by_cases h2 : (bandAddRow l.band k r).rows.length = l.snap.h
    · rw [if_pos (by exact h2), if_pos (by exact h2)]; rfl
    · rw [if_neg (by exact h2), if_neg (by exact h2)]; rfl
  · rw [if_neg (by exact h), if_neg h]

theorem withTaking_takeGRow (t x n k r l) :
    takeGRow t n k r (withTaking x l) = (withTaking x (takeGRow t n k r l).1, (takeGRow t n k r l).2) := by
  unfold takeGRow
  by_cases h : l.coder.groupOpen = true
  · rw [if_pos (by exact h), if_pos h]; dsimp only
    by_cases h2 : (groupAddRow t l.coder k r).group.length = 4
    · rw [if_pos (by exact h2), if_pos (by exact h2)]; rfl
    · rw [if_neg (by exact h2), if_neg (by exact h2)]; rfl
  · rw [if_neg (by exact h), if_neg h]

theorem withTaking_finishB (x n l) : finishB n (withTaking x l) = withTaking x (finishB n l) := by
  unfold finishB
  change (match channelFinish l.b with | (ch, none) => _ | (ch, some (rowNo, row)) => _) = _
  rcases hh : channelFinish l.b with ⟨ch, _ | ⟨a, b⟩⟩
  · rfl
  · dsimp only
    have := withTaking_takeBRow x n a b { l with b := ch }
    rw [show ({ withTaking x l with b := ch } : Lane) = withTaking x { l with b := ch } from rfl, this]
    rcases takeBRow n a b { l with b := ch } with ⟨m, _ | sg⟩ <;> rfl

theorem withTaking_finishG (t x n l) : finishG t n (withTaking x l) = withTaking x (finishG t n l) := by
  unfold finishG
  change (match channelFinish l.g with | (ch, none) => _ | (ch, some (rowNo, row)) => _) = _
  rcases hh : channelFinish l.g with ⟨ch, _ | ⟨a, b⟩⟩
  · rfl
  · dsimp only
    have := withTaking_takeGRow t x n a b { l with g := ch }
    rw [show ({ withTaking x l with g := ch } : Lane) = withTaking x { l with g := ch } from rfl, this]
    rcases takeGRow t n a b { l with g := ch } with ⟨m, _ | sg⟩ <;> rfl

theorem withTaking_finishBand (x n l) : finishBand n (withTaking x l) = withTaking x (finishBand n l) := by
  unfold finishBand
  by_cases h : (l.band.active && l.band.rows != []) = true
  · rw [if_pos (by exact h), if_pos h]; rfl
  · rw [if_neg (by exact h), if_neg h]; rfl

theorem withTaking_finishGroup (x n l) : finishGroup n (withTaking x l) = withTaking x (finishGroup n l) := by
  unfold finishGroup
  by_cases h : (l.coder.groupOpen && l.coder.group != []) = true
  · rw [if_pos (by exact h), if_pos h]; rfl
  · rw [if_neg (by exact h), if_neg h]; rfl

theorem withTaking_closingWork (t x n l) : closingWork t n (withTaking x l) = withTaking x (closingWork t n l) := by
  unfold closingWork
  rw [show ({ withTaking x l with state := .closing } : Lane) = withTaking x { l with state := .closing } from rfl,
    withTaking_finishB, withTaking_finishG, withTaking_finishBand, withTaking_finishGroup]; rfl

theorem State.closingTested_withTaking (s : State) (n x c) :
    (s.closingTested n c).setLane n (withTaking x ((s.closingTested n c).lane n)) = s.closingTested n (withTaking x c) := by
    unfold State.closingTested
    dsimp only
    by_cases h : (List.map segSize (c.coder.finalB.toList ++ c.coder.finalG.toList ++ c.quality.composed.toList)).sum ≤ 32768 - (List.map segSize c.store).sum
    · rw [if_pos h]; refine Eq.trans ?_ (if_pos (by exact h)).symm; simp [State.setLane, State.lane, withTaking]; exact ⟨rfl, rfl⟩
    · rw [if_neg h]; refine Eq.trans ?_ (if_neg (by exact h)).symm; simp [State.setLane, State.lane, withTaking]

theorem State.itemEnds_withTaking (s : State) (n x l) :
    (s.itemEnds n l).setLane n (withTaking x ((s.itemEnds n l).lane n)) = s.itemEnds n (withTaking x l) := by
  unfold State.itemEnds
  rw [State.closingTested_withTaking]
  congr 1
  by_cases h : l.state = .opened
  · rw [if_pos h, if_pos (by exact h), withTaking_closingWork]; rfl
  · rw [if_neg h, if_neg (by exact h)]; rfl

theorem State.itemEnds_taking (s : State) (n l) : ((s.itemEnds n l).lane n).taking = l.taking := by
  have := State.itemEnds_withTaking s n l.taking l
  have h2 := congrArg (fun t : State => (t.lane n).taking) this
  simp only [State.setLane_lane_same] at h2
  exact h2.symm

/-- R13: an ITEM CLOSE taken in OPEN is checked on its first three data symbols, or on those it has. -/
theorem State.laneData_close (syms : List Symbol) (n : Fin 4) :
    ∀ (s : State) (acc : List Symbol), acc.length < 3 → (s.lane n).state = .opened →
    (s.lane n).taking = .close acc →
    (syms.foldl (fun s sym => s.laneData n sym) s).laneUnitEnd n =
     s.itemEnds n (countCheck ((acc ++ syms).take 3) { s.lane n with taking := .none }) := by
  have cc : ∀ X (l : Lane), (countCheck X l).state = l.state ∧ (countCheck X l).taking = l.taking := by
    intro X l; unfold countCheck; split <;> exact ⟨rfl, rfl⟩
  have cct : ∀ X (l : Lane) x, countCheck X (withTaking x l) = withTaking x (countCheck X l) := by
    intro X l x; unfold countCheck
    by_cases h : declaredCount X = some l.lineCount
    · rw [if_pos (by exact h), if_pos h]
    · rw [if_neg (by exact h), if_neg h]; rfl
  have chk : ∀ (s : State) X, (s.lane n).state = .opened → s.checkClose n X =
      s.itemEnds n (withTaking .dropping (countCheck X (s.lane n))) := by
    intro s X h
    unfold State.checkClose
    rw [State.setLane_closeLane _ _ _ (by rw [(cc _ _).1]; exact .inl h)]
    rw [← cct]; rfl
  have chk2 : ∀ (s : State) X, (s.lane n).state = .opened →
      (s.checkClose n X).setLane n { (s.checkClose n X).lane n with taking := .none } = s.itemEnds n (countCheck X { s.lane n with taking := .none }) := by
    intro s X h
    rw [chk s X h]
    refine (State.itemEnds_withTaking s n .none _).trans ?_
    rw [show ({ s.lane n with taking := .none } : Lane) = withTaking .none (s.lane n) from rfl, cct]; rfl
  induction syms with
  | nil =>
    intro s acc ha hs h
    simp only [List.foldl_nil, State.laneUnitEnd, h, List.append_nil]
    rw [List.take_of_length_le (by omega)]
    exact chk2 s acc hs
  | cons a l ih =>
    intro s acc ha hs h
    rw [List.foldl_cons]
    by_cases h9 : acc.length + 1 = 3
    · have : s.laneData n a = s.checkClose n (acc ++ [a]) := by
        simp [State.laneData, h, h9]
      have htk : ((s.checkClose n (acc ++ [a])).lane n).taking = .dropping := by
        rw [chk s _ hs, State.itemEnds_taking]; rfl
      rw [this, State.laneData_dropping _ _ _ (.inl htk)]
      have e : (acc ++ a :: l).take 3 = acc ++ [a] := by
        rw [List.take_append, List.take_of_length_le (by omega)]
        have : 3 - acc.length = 1 := by omega
        simp [this]
      rw [e]
      simp only [State.laneUnitEnd, htk]
      exact chk2 s _ hs
    · have : s.laneData n a = s.setLane n { s.lane n with taking := .close (acc ++ [a]) } := by
        simp [State.laneData, h, h9]
      rw [this, ih _ (acc ++ [a]) (by simp; omega) (by simpa using hs) (by simp)]
      rw [State.setLane_itemEnds]
      simp only [State.setLane_lane_same, List.append_assoc, List.singleton_append]

/-! ## The end of a line -/

/-- R45, R94, R95: the end-of-line signal of a lane: its rows taken, and the segments they build offered in order. -/
theorem endLine_eq (tone : Vector Byte 256) (gFirst : Bool) (n : Fin 4) (l : Lane) :
    endLine tone gFirst n l =
      (lineCompletes tone gFirst n l).2.foldl segmentOffered (lineCompletes tone gFirst n l).1 := by
  have ho : ∀ g l, offer g l = segmentOffered l g := fun _ _ => rfl
  have hb : endLineB n l = (match (channelLine l.b).2 with
      | none => ({ l with b := (channelLine l.b).1 }, none)
      | some (i, values) => takeBRow n i values { l with b := (channelLine l.b).1 }) := by
    unfold endLineB
    rcases channelLine l.b with ⟨ch, _ | ⟨i, values⟩⟩ <;> rfl
  have hbg : (endLineB n l).1.g = l.g := by
    rw [hb]
    rcases (channelLine l.b).2 with _ | ⟨i, values⟩
    · rfl
    · dsimp only [takeBRow]
      split
      · split <;> rfl
      · rfl
  have hg : ∀ m : Lane, endLineG tone n m = (match (channelLine m.g).2 with
      | none => ({ m with g := (channelLine m.g).1 }, none)
      | some (i, values) => takeGRow tone n i values { m with g := (channelLine m.g).1 }) := by
    intro m
    unfold endLineG
    rcases channelLine m.g with ⟨ch, _ | ⟨i, values⟩⟩ <;> rfl
  have e : endLine tone gFirst n l = (match (endLineB n l).2, (endLineG tone n (endLineB n l).1).2 with
      | some b, some g =>
        if gFirst then offer b (offer g (endLineG tone n (endLineB n l).1).1)
        else offer g (offer b (endLineG tone n (endLineB n l).1).1)
      | b, g => offerOption g (offerOption b (endLineG tone n (endLineB n l).1).1)) := rfl
  have c : lineCompletes tone gFirst n l =
      ((endLineG tone n (endLineB n l).1).1,
        if gFirst then (endLineG tone n (endLineB n l).1).2.toList ++ (endLineB n l).2.toList
        else (endLineB n l).2.toList ++ (endLineG tone n (endLineB n l).1).2.toList) := by
    rw [hg (endLineB n l).1, hbg, hb]
    rfl
  rw [e, c]
  rcases (endLineB n l).2 with _ | b <;> rcases (endLineG tone n (endLineB n l).1).2 with _ | g <;> cases gFirst <;>
    simp [offerOption, ho]

/-- R45, R49, R94, R95: the end of a line of lane `n`, being `l`. -/
theorem State.setLane_endLineOf (s : State) (n : Fin 4) (l : Lane) (h : l.coder.gTable = (s.lane n).coder.gTable) :
    (s.setLane n l).endLineOf n = s.lineEnds n l := by
  have e : (s.setLane n l).lane n = l := State.setLane_lane_same ..
  have ht : (s.setLane n l).laneTone n = s.tables.tones[(s.lane n).coder.gTable] := by
    simp only [State.laneTone, e, h]; rfl
  unfold State.endLineOf State.lineEnds
  rw [e, ht]
  dsimp only
  rw [show (s.setLane n l).orderIndex = s.orderIndex from rfl, endLine_eq]
  generalize List.foldl segmentOffered _ _ = l'
  have e2 : (s.setLane n l).setLane n l' = s.setLane n l' := by simp [State.setLane]
  rw [e2]
  unfold State.noteLost
  by_cases hd : l.quality.dropped < l'.quality.dropped
  · simp [hd, State.setLane, State.withReq, State.withOrder]
  · simp [hd, State.setLane, State.withOrder]

end Sys2Proof.Machine
end

