-- ==== Sys2Proof/Laws/Kept.lean ====
section
/-! SUPPORT. What a symbol's arrival keeps: a property of the state that does not rest on the link's own state is kept by
every arrival if the operations that LRX calls keep it. -/

namespace Sys2Proof.Machine

/-- The operations that LRX calls keep `P`. -/
structure Kept (P : State → Prop) : Prop where
  lrx          : ∀ s v, P s → P (s.withLrx v)
  stray        : ∀ s, P s → P s.countStray
  tagParity    : ∀ s, P s → P s.countTagParity
  extraData    : ∀ s, P s → P s.countExtraData
  rxOverrun    : ∀ s, P s → P s.countRxOverrun
  endTransit   : ∀ s, P s → P s.endTransit
  writeHeader  : ∀ tag hi lo s, P s → P (s.writeHeader tag hi lo).1
  writeData    : ∀ sym w s, P s → P (s.writeData sym w).1
  laneData     : ∀ n sym s, P s → P (s.laneData n sym)
  laneUnitEnd  : ∀ n s, P s → P (s.laneUnitEnd n)
  supersede    : ∀ n s, (s.lane n).state = .opened ∨ (s.lane n).state = .discard → P s → P (s.supersede n)
  beginImage   : ∀ kind n sym s, laneRefuses kind (s.lane n) = false → P s → P (s.beginImage kind n sym)
  takeRequest  : ∀ len data s, s.refusesRequest data = false → P s → P (s.takeRequest len data)
  requestData  : ∀ sym s, P s → P (s.requestData sym)
  requestEnd   : ∀ s, P s → P s.requestEnd

variable {P : State → Prop} {s : State}

section

variable (K : Kept P)
include K

theorem Kept.withParse (p : Parse) (h : P s) : P (s.withParse p) := K.lrx _ _ h
theorem Kept.withHold (v : Option Held) (h : P s) : P (s.withHold v) := K.lrx _ _ h
theorem Kept.withUnit (u : CurrentUnit) (h : P s) : P (s.withUnit u) := K.lrx _ _ h

theorem Kept.startCopy (u : CurrentUnit) (data : List Symbol) (h : P s) : P (s.startCopy u data) := by
  unfold State.startCopy; split
  · exact K.lrx _ _ h
  · exact h

theorem Kept.extendCopy (u : CurrentUnit) (sym : Symbol) (h : P s) : P (s.extendCopy u sym) := by
  unfold State.extendCopy; split
  · split <;> exact K.lrx _ _ h
  · exact h

theorem Kept.cutCopy (u : CurrentUnit) (h : P s) : P (s.cutCopy u) := by
  unfold State.cutCopy; split
  · exact K.lrx _ _ h
  · exact h

theorem Kept.acceptImage (n : Fin 4) (held : Held) (sym : Symbol) (hr : laneRefuses (tagKind held.unit.tag) (s.lane n) = false)
    (h : P s) : P (s.acceptImage n held sym) := by
  have h' : P (((s.withHold none).withUnit { held.unit with dest := .lane n }).beginImage (tagKind held.unit.tag) n sym) :=
    K.beginImage _ _ _ _ hr (K.withUnit _ (K.withHold _ h))
  unfold State.acceptImage
  dsimp only
  split
  · exact K.laneUnitEnd _ _ h'
  · exact h'

theorem Kept.presentImage (n : Fin 4) (held : Held) (sym : Symbol) (h : P s) : P (s.presentImage n held sym) := by
  unfold State.presentImage
  dsimp only
  split
  · exact K.withHold _ h
  · split
    · rename_i hr
      split
      · exact K.withHold _ h
      · rename_i hc
        have h' : P ((s.withHold (some held)).supersede n) := by
          refine K.supersede _ _ ?_ (K.withHold _ h)
          simp only [laneRefuses, Bool.or_eq_true, beq_iff_eq, hc, false_or, Bool.and_eq_true, bne_iff_ne] at hr
          change (s.lane n).state = .opened ∨ (s.lane n).state = .discard
          cases hl : (s.lane n).state <;> simp_all
        unfold State.supersedeImage
        dsimp only
        split
        · rename_i hi
          exact K.acceptImage n held sym (by simp [laneRefuses, hi]) h'
        · exact h'
    · rename_i hr
      split
      · exact K.stray _ (K.withUnit _ (K.withHold _ h))
      · exact K.acceptImage n held sym (by simpa using hr) h

theorem Kept.presentRequest (held : Held) (h : P s) : P (s.presentRequest held) := by
  unfold State.presentRequest
  split
  · exact K.withHold _ h
  · rename_i hr
    have h1 : P ((s.withHold none).withUnit { held.unit with dest := .request }) := K.withUnit _ (K.withHold _ h)
    have hr' : ((((s.withHold none).withUnit { held.unit with dest := .request })).startCopy held.unit
        held.data).refusesRequest held.data = false := by
      unfold State.startCopy; split <;> exact Bool.not_eq_true _ ▸ hr
    have h2 := K.takeRequest (unitLength held.unit) _ _ hr' (K.startCopy held.unit held.data h1)
    dsimp only
    split
    · split
      · exact K.requestEnd _ (K.cutCopy _ h2)
      · exact K.requestEnd _ h2
    · exact h2

theorem Kept.present (held : Held) (h : P s) : P (s.present held) := by
  unfold State.present
  split
  · exact K.presentRequest held h
  · split
    · exact K.withHold _ h
    · exact K.presentImage _ held _ h

theorem Kept.finishUnit (u : CurrentUnit) (early : Bool) (h : P s) : P (s.finishUnit u early) := by
  have h' : P (s.withParse .watch) := K.withParse _ h
  unfold State.finishUnit
  dsimp only
  split
  · exact h'
  · split
    · exact K.endTransit _ h'
    · exact h'
  · exact K.stray _ h'
  · exact K.laneUnitEnd _ _ h'
  · exact K.present _ h'
  · split
    · exact K.requestEnd _ (K.cutCopy _ h')
    · exact K.requestEnd _ h'

theorem Kept.beginHeader (tag : Symbol) (h : P s) : P (s.beginHeader tag) := by
  unfold State.beginHeader; split
  · exact K.tagParity _ (K.withParse _ h)
  · exact K.withParse _ h

theorem Kept.tagInUnit (u : CurrentUnit) (tag : Symbol) (h : P s) : P (s.tagInUnit u tag) := by
  have h' := K.finishUnit u true h
  unfold State.tagInUnit
  dsimp only
  split
  · exact K.lrx _ _ h'
  · exact K.beginHeader _ h'

theorem Kept.lengthKnown (cls : UnitClass) (tag hi lo : Symbol) (h : P s) : P (s.lengthKnown cls tag hi lo) := by
  have h' : P (s.destOf cls tag hi lo).1 := by
    unfold State.destOf
    split
    · exact h
    · exact K.writeHeader _ _ _ _ h
    · exact h
    · exact h
  unfold State.lengthKnown
  dsimp only
  split
  · exact K.finishUnit _ _ h'
  · exact K.withParse _ h'

theorem Kept.takeLength (cls : UnitClass) (tag : Symbol) (hi : Option Symbol) (sym : Symbol) (h : P s) :
    P (s.takeLength cls tag hi sym) := by
  unfold State.takeLength; split
  · exact K.tagParity _ (K.withParse _ h)
  · split
    · exact K.withParse _ h
    · exact K.lengthKnown _ _ _ _ h

theorem Kept.takeLaneSymbol (u : CurrentUnit) (sym : Symbol) (h : P s) : P (s.takeLaneSymbol u sym) := by
  unfold State.takeLaneSymbol; split
  · exact K.stray _ (K.withUnit _ h)
  · exact K.present _ (K.withParse _ h)

theorem Kept.takeKindSymbol (u : CurrentUnit) (first : List Symbol) (sym : Symbol) (h : P s) :
    P (s.takeKindSymbol u first sym) := by
  unfold State.takeKindSymbol
  dsimp only
  split
  · split
    · exact K.finishUnit _ _ h
    · exact K.withParse _ h
  · exact K.present _ (K.withParse _ h)

theorem Kept.takeBody (u : CurrentUnit) (sym : Symbol) (h : P s) : P (s.takeBody u sym) := by
  unfold State.takeBody
  split
  · exact K.withUnit _ h
  · exact K.withUnit _ (K.writeData _ _ _ h)
  · exact K.takeLaneSymbol _ _ h
  · have h' := K.laneData ‹_› sym _ (K.withUnit u h)
    dsimp only
    split
    · exact K.finishUnit _ _ h'
    · exact h'
  · exact K.takeKindSymbol _ _ _ h
  · have h' := K.requestData sym _ (K.extendCopy u sym (K.withUnit u h))
    dsimp only
    split
    · exact K.finishUnit _ _ h'
    · exact h'

theorem Kept.takeSymbol (sym : Symbol) (h : P s) : P (s.takeSymbol sym) := by
  unfold State.takeSymbol
  split
  · split
    · exact K.beginHeader _ h
    · unfold State.tagInHeader
      dsimp only
      split <;> exact K.withParse _ (K.tagParity _ h)
    · exact K.tagInUnit _ _ h
  · split
    · exact K.extraData _ h
    · exact K.takeLength _ _ _ _ h
    · exact K.takeBody _ _ h

theorem Kept.drainFifo (fuel : Nat) (h : P s) : P (s.drainFifo fuel) := by
  induction fuel generalizing s with
  | zero => exact h
  | succ k ih =>
    unfold State.drainFifo
    split
    · split
      · exact h
      · exact ih (K.takeSymbol _ (K.lrx _ _ h))
    · exact h

theorem Kept.drain (h : P s) : P s.drain := K.drainFifo _ h

/-- Every arrival keeps what the operations that LRX calls keep. -/
theorem Kept.arrive (sym : Symbol) (h : P s) : P (s.arrive sym) := by
  unfold State.arrive
  split
  · exact h
  · split
    · exact K.drain (K.lrx _ _ h)
    · exact K.rxOverrun _ h

theorem Kept.arriveAll (syms : List Symbol) (h : P s) : P (s.arriveAll syms) := by
  induction syms generalizing s with
  | nil => exact h
  | cons sym rest ih => exact ih (K.arrive sym h)

/-- The held unit presented again keeps it too. -/
theorem Kept.presentHeld (h : P s) : P s.presentHeld := by
  unfold State.presentHeld
  split
  · exact h
  · exact K.drain (K.present _ h)

theorem Kept.presentLaneAgain (n : Fin 4) (h : P s) : P (s.presentLaneAgain n) := by
  unfold State.presentLaneAgain
  split
  · exact K.presentHeld h
  · exact h

theorem Kept.presentRequestAgain (h : P s) : P s.presentRequestAgain := by
  unfold State.presentRequestAgain
  split
  · exact K.presentHeld h
  · exact h

end

/-- R15: no stall limit is above 255. -/
theorem stallLimitOf_le (l : Lane) : stallLimitOf l ≤ 255 := by
  unfold stallLimitOf
  split
  · exact Nat.le_of_lt_succ (snapRecord l.snap).stallLimit.isLt
  all_goals decide

/-- The operations of all commands keep `P`. A pulse count that is set stays below the divisor, or as it was (R165), and a
stall timer that is set is at most 255 (R15). -/
structure StepKept (P : State → Prop) : Prop extends Kept P where
  pending       : ∀ s v, P s → P (s.withPending v)
  powerOn       : ∀ adr s, P s → P (s.powerOn adr)
  resetAssert   : ∀ s, P s → P s.resetAssert
  resetRelease  : ∀ adr s, P s → P (s.resetRelease adr)
  time          : ∀ s v, v.pulses < max 1 s.tables.divisor ∨ v.pulses = s.time.pulses → P s → P (s.withTime v)
  stallTimer    : ∀ n v s, v ≤ 255 → P s → P (s.setLane n { s.lane n with stallTimer := v })
  expire        : ∀ n s, timerRuns (s.lane n) = true → P s → P (s.expire n)
  endClosing    : ∀ n s, canQueue (s.lane n) = true → P s → P (s.endClosing n)
  bus           : ∀ s v, P s → P (s.withBus v)
  dstopAssert   : ∀ s, P s → P s.dstopAssert
  dstopDeassert : ∀ s, P s → P s.dstopDeassert
  emitUnitBegin : ∀ s, P s → P s.emitUnitBegin
  symbolSent    : ∀ s, P s → P s.symbolSent
  endBootLoad   : ∀ code s, P s → P (s.endBootLoad code)
  bootByteRead  : ∀ v s, P s → P (s.bootByteRead v)

variable (Q : StepKept P)
include Q

theorem StepKept.tickLane (n : Fin 4) (h : P s) : P (s.tickLane n) := by
  unfold State.tickLane
  dsimp only
  split
  · rename_i hr
    have h' := Q.stallTimer n (min ((s.lane n).stallTimer + 1) (stallLimitOf (s.lane n))) s
      ((Nat.min_le_right _ _).trans (stallLimitOf_le _)) h
    split
    · exact Q.expire _ _ (by rw [State.setLane_lane_same]; exact hr) h'
    · exact h'
  · exact h

theorem StepKept.tickLanes (h : P s) : P s.tickLanes := by
  unfold State.tickLanes
  split
  · exact Q.tickLane _ (Q.tickLane _ (Q.tickLane _ (Q.tickLane _ h)))
  · exact h

theorem StepKept.pulse (h : P s) : P s.pulse := by
  unfold State.pulse
  dsimp only
  split
  · exact h
  · split
    · exact Q.tickLanes (Q.time _ _ (.inl (by simp)) h)
    · rename_i hd
      exact Q.time _ _ (.inl (lt_max_of_lt_right (Nat.lt_of_not_le hd))) h

theorem StepKept.tick (h : P s) : P s.tick := by
  unfold State.tick
  dsimp only
  split
  · exact h
  · exact Q.tickLanes (Q.time _ _ (.inl (by simp)) h)

theorem StepKept.refCycle (h : P s) : P s.refCycle := by
  unfold State.refCycle
  split
  · exact h
  · split
    · exact Q.pulse h
    · exact Q.time _ _ (.inr rfl) h

theorem StepKept.stallExpiry (n : Fin 4) (h : P s) : P (s.stallExpiry n) := by
  unfold State.stallExpiry
  split
  · rename_i hr
    refine Q.expire _ _ ?_ (Q.stallTimer n _ s (stallLimitOf_le _) h)
    rw [State.setLane_lane_same]
    simp only [State.expiryCanCome, Bool.and_eq_true] at hr
    exact hr.1.1
  · exact h

theorem StepKept.unitEnd (h : P s) : P s.unitEnd := by
  have all : ∀ (k : Nat) (t : State), P t → P (t.sendSymbols k) := by
    intro k
    induction k with
    | zero => exact fun _ h => h
    | succ k ih => exact fun t h => ih _ (Q.symbolSent _ h)
  unfold State.unitEnd
  split
  · exact h
  · split
    · exact all _ _ h
    · exact h

theorem StepKept.retestClosing (n : Fin 4) (h : P s) : P (s.retestClosing n) := by
  unfold State.retestClosing
  split
  · rename_i hq
    exact Q.presentLaneAgain n (Q.endClosing n s hq h)
  · exact h

theorem StepKept.bootNoAnswer (h : P s) : P s.bootNoAnswer := by
  unfold State.bootNoAnswer
  split
  · exact h
  · exact Q.endBootLoad _ _ (Q.bus _ _ h)

/-- Every command keeps what the operations of all commands keep. -/
theorem StepKept.exec (c : Instr) {t : State} (h : P s) (he : exec c s = .next t) : P t := by
  have key : ∀ u : State, P u → (Host.Outcome.next u : Host.Outcome State Fault Refusal) = .next t → P t := by
    intro u hu e; cases e; exact hu
  cases c with
  | powerOn adr => exact key _ (Q.powerOn _ _ h) he
  | resetAssert => exact key _ (Q.resetAssert _ h) he
  | resetRelease adr => exact key _ (Q.resetRelease _ _ h) he
  | symbolArrival sym => exact key _ (Q.arrive sym h) he
  | itemOpen u => exact key _ (Q.arriveAll _ h) he
  | line u => exact key _ (Q.arriveAll _ h) he
  | itemClose u => exact key _ (Q.arriveAll _ h) he
  | stallExpiry n => exact key _ (Q.stallExpiry n h) he
  | closingQueue n => exact key _ (Q.retestClosing n h) he
  | presentHeldUnit => exact key _ (Q.presentHeld h) he
  | loadProfile r => exact key _ (Q.arriveAll _ h) he
  | readProfile r => exact key _ (Q.arriveAll _ h) he
  | loadTone r => exact key _ (Q.arriveAll _ h) he
  | readTone r => exact key _ (Q.arriveAll _ h) he
  | loadTimebase r => exact key _ (Q.arriveAll _ h) he
  | readStatus r => exact key _ (Q.arriveAll _ h) he
  | abortLane r => exact key _ (Q.arriveAll _ h) he
  | restartPart r => exact key _ (Q.arriveAll _ h) he
  | reloadBoot r => exact key _ (Q.arriveAll _ h) he
  | dstopAssert => exact key _ (Q.dstopAssert _ h) he
  | dstopDeassert => exact key _ (Q.dstopDeassert _ h) he
  | prescalerPulse => exact key _ (Q.pulse h) he
  | tick => exact key _ (Q.tick h) he
  | emitUnitBegin => exact key _ (Q.emitUnitBegin _ h) he
  | unitEnd => exact key _ (Q.unitEnd h) he
  | bootMemoryNoAnswer => exact key _ (Q.bootNoAnswer h) he
  | bootByteRead b => exact key _ (Q.bootByteRead _ _ h) he
  | symbolSent => exact key _ (Q.symbolSent _ h) he

/-- Every step keeps what the operations of all commands keep. -/
theorem StepKept.step {t : State} (h : P s) (he : step s = .next t) : P t := by
  unfold Machine.step at he
  split at he
  · cases he; exact Q.refCycle h
  · exact Q.exec _ (Q.pending _ _ h) he

end Sys2Proof.Machine
end

