-- ==== Sys2Proof/Laws/LinkBounds.lean ====
section
/-! SUPPORT. What a symbol's arrival keeps of the link's own bounds: the receive FIFO, the hold slot, the request copy and the
request in progress. -/

namespace Sys2Proof.Machine

/-- The link's bounds, with at most `m` symbols in the receive FIFO: while a symbol is taken, a place of it is free. -/
structure LinkWithin (m : Nat) (s : State) : Prop where
  fifo    : s.lrx.fifo.length ≤ m
  hold    : ∀ h ∈ s.lrx.hold, h.data.length ≤ 2
  kind    : ∀ u first, s.lrx.parse = .body u → u.dest = .awaitKind first → first.length ≤ 1
  copy    : s.lrx.copy.length ≤ 262
  request : ∀ q ∈ s.req.inProgress, q.data.length ≤ 259

theorem linkBounded_iff {s : State} : LinkBounded s ↔ LinkWithin 64 s :=
  ⟨fun h => ⟨h.fifo, h.hold, h.kind, h.copy, h.request⟩, fun h => ⟨h.fifo, h.hold, h.kind, h.copy, h.request⟩⟩

namespace LinkWithin

variable {m : Nat} {s t : State}

/-- What leaves LRX and the request in progress alone keeps the bounds. -/
theorem of_eq (h : LinkWithin m s) (hl : t.lrx = s.lrx) (hr : t.req.inProgress = s.req.inProgress) : LinkWithin m t :=
  ⟨hl ▸ h.fifo, hl ▸ h.hold, hl ▸ h.kind, hl ▸ h.copy, hr ▸ h.request⟩

theorem mono {k : Nat} (h : LinkWithin m s) (hk : m ≤ k) : LinkWithin k s :=
  ⟨h.fifo.trans hk, h.hold, h.kind, h.copy, h.request⟩

/-- A part whose link and Request Unit stand as after a reset. -/
theorem of_reset (hl : s.lrx = {}) (hr : s.req.inProgress = none) : LinkWithin m s :=
  ⟨by simp [hl], by simp [hl], by simp [hl], by simp [hl], by simp [hr]⟩

theorem lane {n : Fin 4} (h : LinkWithin m s) (f : LaneFrame n s t) : LinkWithin m t := h.of_eq f.lrx (by rw [f.req])

theorem transit (h : LinkWithin m s) (f : TransitFrame s t) : LinkWithin m t := h.of_eq f.lrx (by rw [f.req])

theorem withParse {p : Parse} (h : LinkWithin m s)
    (hp : ∀ u first, p = .body u → u.dest = .awaitKind first → first.length ≤ 1) : LinkWithin m (s.withParse p) :=
  ⟨h.fifo, h.hold, hp, h.copy, h.request⟩

theorem watch (h : LinkWithin m s) : LinkWithin m (s.withParse .watch) := h.withParse (by simp)

theorem header {cls : UnitClass} {tag : Symbol} {hi : Option Symbol} (h : LinkWithin m s) :
    LinkWithin m (s.withParse (.header cls tag hi)) := h.withParse (by simp)

theorem withUnit {u : CurrentUnit} (h : LinkWithin m s) (hu : ∀ first, u.dest = .awaitKind first → first.length ≤ 1) :
    LinkWithin m (s.withUnit u) := by
  refine h.withParse fun v first hv => ?_
  split at hv
  · cases hv
  · cases hv; exact hu first

theorem withHold {v : Option Held} (h : LinkWithin m s) (hv : ∀ x ∈ v, x.data.length ≤ 2) :
    LinkWithin m (s.withHold v) := ⟨h.fifo, hv, h.kind, h.copy, h.request⟩

theorem free (h : LinkWithin m s) : LinkWithin m (s.withHold none) := h.withHold (by simp)

theorem startCopy {u : CurrentUnit} {data : List Symbol} (h : LinkWithin m s) (hd : data.length ≤ 2) :
    LinkWithin m (s.startCopy u data) := by
  unfold State.startCopy
  split
  · exact ⟨h.fifo, h.hold, h.kind, by simp; omega, h.request⟩
  · exact h

theorem extendCopy (u : CurrentUnit) (sym : Symbol) (h : LinkWithin m s) : LinkWithin m (s.extendCopy u sym) := by
  unfold State.extendCopy
  split
  · split
    · rename_i hc
      exact ⟨h.fifo, h.hold, h.kind, by simpa [copySymbols] using hc, h.request⟩
    · exact ⟨h.fifo, h.hold, h.kind, h.copy, h.request⟩
  · exact h

theorem cutCopy (u : CurrentUnit) (h : LinkWithin m s) : LinkWithin m (s.cutCopy u) := by
  unfold State.cutCopy
  split
  · exact ⟨h.fifo, h.hold, h.kind, h.copy, h.request⟩
  · exact h

theorem takeRequest (len : Nat) {data : List Symbol} (h : LinkWithin m s) (hd : data.length ≤ 2) :
    LinkWithin m (s.takeRequest len data) :=
  ⟨h.fifo, h.hold, h.kind, h.copy, by simp [State.takeRequest]; omega⟩

theorem requestData (sym : Symbol) (h : LinkWithin m s) : LinkWithin m (s.requestData sym) := by
  unfold State.requestData
  split
  · exact h
  · rename_i q hq
    have hb := h.request q (by simp [hq])
    refine ⟨h.fifo, h.hold, h.kind, h.copy, ?_⟩
    intro v hv
    obtain rfl : recordSymbol q sym = v := by simpa using hv
    exact (recordSymbol_length q sym hb)

/-- What an execution answers leaves the link alone. -/
theorem answer (tag kind : Byte) (code : ReplyCode) (body : List Byte) (h : LinkWithin m s) :
    LinkWithin m (s.answer tag kind code body) := h.of_eq rfl rfl

theorem requestEnd (h : LinkWithin m s) : LinkWithin m s.requestEnd := by
  unfold State.requestEnd
  split
  · exact h
  · rename_i q hq
    have h0 : LinkWithin m (s.withReq { s.req with inProgress := none }) :=
      ⟨h.fifo, h.hold, h.kind, h.copy, by simp⟩
    generalize s.withReq { s.req with inProgress := none } = s at h0
    have hw : LinkWithin m s.writeCopy := by
      have hc := h0.transit (.writeCopySymbols s.lrx.copy s.lrx.copyCut s)
      exact ⟨h0.fifo, h0.hold, h0.kind, by simp [State.writeCopy], hc.request⟩
    unfold State.execute
    split
    · exact hw.answer _ _ _ _
    · exact answer _ _ _ _ (hw.of_eq rfl rfl)
    · exact hw.answer _ _ _ _
    · exact answer _ _ _ _ (hw.of_eq rfl rfl)
    · exact hw.answer _ _ _ _
    · unfold State.doLoadTimebase
      dsimp only
      refine answer _ _ _ _ ?_
      split <;> exact hw.of_eq rfl rfl
    · exact answer _ _ _ _ (hw.of_eq rfl rfl)
    · unfold State.doAbortLane
      dsimp only
      split
      · exact answer _ _ _ _ (hw.lane (.abort _ _))
      · exact hw.answer _ _ _ _
    · unfold State.doReloadBoot
      split
      · exact hw.of_eq rfl rfl
      · exact hw.answer _ _ _ _
    · exact (of_reset rfl rfl).transit (.writeCopySymbols _ _ _)

/-! ## Presenting -/

theorem acceptImage (n : Fin 4) (held : Held) (sym : Symbol) (h : LinkWithin m s) :
    LinkWithin m (s.acceptImage n held sym) := by
  have h' : LinkWithin m
      (((s.withHold none).withUnit { held.unit with dest := .lane n }).beginImage (tagKind held.unit.tag) n sym) :=
    (h.free.withUnit (by simp)).lane (.beginImage _ _ _ _)
  unfold State.acceptImage
  dsimp only
  split
  · exact h'.lane (.laneUnitEnd _ _)
  · exact h'

theorem presentImage (n : Fin 4) {held : Held} (sym : Symbol) (h : LinkWithin m s) (hd : held.data.length ≤ 2) :
    LinkWithin m (s.presentImage n held sym) := by
  have hh : LinkWithin m (s.withHold (some held)) := h.withHold (by simpa using hd)
  unfold State.presentImage
  dsimp only
  split
  · exact hh
  · split
    · split
      · exact hh
      · have hs := hh.lane (.supersede n _)
        unfold State.supersedeImage
        dsimp only
        split
        · exact hs.acceptImage _ _ _
        · exact hs
    · split
      · exact (h.free.withUnit (by simp)).of_eq rfl rfl
      · exact h.acceptImage _ _ _

theorem presentRequest {held : Held} (h : LinkWithin m s) (hd : held.data.length ≤ 2) :
    LinkWithin m (s.presentRequest held) := by
  unfold State.presentRequest
  split
  · exact h.withHold (by simpa using hd)
  · have h2 := ((h.free.withUnit (u := { held.unit with dest := .request }) (by simp)).startCopy
      (u := held.unit) hd).takeRequest (unitLength held.unit) hd
    dsimp only
    split
    · split
      · exact (h2.cutCopy _).requestEnd
      · exact h2.requestEnd
    · exact h2

theorem present {held : Held} (h : LinkWithin m s) (hd : held.data.length ≤ 2) : LinkWithin m (s.present held) := by
  unfold State.present
  split
  · exact h.presentRequest hd
  · split
    · exact h.free
    · exact h.presentImage _ _ hd

/-! ## Taking a symbol -/

theorem finishUnit {u : CurrentUnit} (early : Bool) (h : LinkWithin m s)
    (hu : ∀ first, u.dest = .awaitKind first → first.length ≤ 1) : LinkWithin m (s.finishUnit u early) := by
  have h' := h.watch
  unfold State.finishUnit
  dsimp only
  split
  · exact h'
  · split
    · exact h'.transit (.endTransit _)
    · exact h'
  · exact h'.of_eq rfl rfl
  · exact h'.lane (.laneUnitEnd _ _)
  · rename_i first hd
    exact h'.present ((hu first hd).trans (by decide))
  · split
    · exact (h'.cutCopy _).requestEnd
    · exact h'.requestEnd

theorem beginHeader (tag : Symbol) (h : LinkWithin m s) : LinkWithin m (s.beginHeader tag) := by
  unfold State.beginHeader
  split
  · exact h.watch.of_eq rfl rfl
  · exact h.header

theorem lengthKnown (cls : UnitClass) (tag hi lo : Symbol) (h : LinkWithin m s) :
    LinkWithin m (s.lengthKnown cls tag hi lo) := by
  have h' : LinkWithin m (s.destOf cls tag hi lo).1 ∧
      ∀ first, (s.destOf cls tag hi lo).2 = .awaitKind first → first.length ≤ 1 := by
    unfold State.destOf
    split
    · exact ⟨h, by simp⟩
    · exact ⟨h.transit (.writeHeader _ _ _ _), by simp⟩
    · exact ⟨h, by simp⟩
    · refine ⟨h, fun first => ?_⟩
      split <;> simp
      intro e; subst e; simp
  unfold State.lengthKnown
  dsimp only
  split
  · exact h'.1.finishUnit _ h'.2
  · refine h'.1.withParse fun u first hu hd => h'.2 first ?_
    cases hu
    exact hd

theorem takeBody {u : CurrentUnit} (sym : Symbol) (h : LinkWithin m s)
    (hu : ∀ first, u.dest = .awaitKind first → first.length ≤ 1) : LinkWithin m (s.takeBody u sym) := by
  unfold State.takeBody
  split
  · exact h.withUnit hu
  · exact (h.transit (.writeData _ _ _)).withUnit (by simp)
  · unfold State.takeLaneSymbol
    split
    · exact (h.withUnit (u := { u with dest := .drop }) (by simp)).of_eq rfl rfl
    · exact h.watch.present (by simp)
  · have h' := (h.withUnit hu).lane (.laneData ‹_› _ sym)
    dsimp only
    split
    · exact h'.finishUnit _ hu
    · exact h'
  · rename_i first hd
    have hf := hu first hd
    unfold State.takeKindSymbol
    dsimp only
    split
    · rename_i hl
      have hk : ∀ x, Dest.awaitKind (first ++ [sym]) = .awaitKind x → x.length ≤ 1 := by
        intro x e
        cases e
        omega
      split
      · exact h.finishUnit _ hk
      · refine h.withParse fun v x hv hx => hk x ?_
        cases hv
        exact hx
    · exact h.watch.present (by simpa using hf)
  · have h' := ((h.withUnit hu).extendCopy u sym).requestData sym
    dsimp only
    split
    · exact h'.finishUnit _ hu
    · exact h'

/-- A symbol is taken: a tag that ends a unit which is then held goes back to the head of the receive FIFO. -/
theorem takeSymbol (sym : Symbol) (h : LinkWithin m s) : LinkWithin (m + 1) (s.takeSymbol sym) := by
  have up := fun {t : State} (h : LinkWithin m t) => h.mono (Nat.le_succ m)
  unfold State.takeSymbol
  split
  · split
    · exact up (h.beginHeader _)
    · unfold State.tagInHeader
      dsimp only
      have hc : LinkWithin m s.countTagParity := h.of_eq rfl rfl
      split
      · exact up hc.watch
      · exact up hc.header
    · rename_i u hp
      have h' := h.finishUnit true (h.kind u · hp)
      unfold State.tagInUnit
      dsimp only
      split
      · exact ⟨by simpa using h'.fifo, h'.hold, h'.kind, h'.copy, h'.request⟩
      · exact up (h'.beginHeader _)
  · split
    · exact up (h.of_eq rfl rfl)
    · unfold State.takeLength
      split
      · exact up (h.watch.of_eq rfl rfl)
      · split
        · exact up h.header
        · exact up (h.lengthKnown _ _ _ _)
    · rename_i u hp
      exact up (h.takeBody _ (h.kind u · hp))

end LinkWithin

/-! ## Arrivals and presentations -/

variable {s : State}

theorem LinkBounded.of_eq {t : State} (h : LinkBounded s) (hl : t.lrx = s.lrx) (hr : t.req.inProgress = s.req.inProgress) :
    LinkBounded t := linkBounded_iff.2 ((linkBounded_iff.1 h).of_eq hl hr)

theorem LinkBounded.drainFifo (fuel : Nat) (h : LinkBounded s) : LinkBounded (s.drainFifo fuel) := by
  induction fuel generalizing s with
  | zero => exact h
  | succ k ih =>
    unfold State.drainFifo
    split
    · split
      · exact h
      · rename_i sym rest hf
        have hr : rest.length ≤ 63 := by
          have := h.fifo
          rw [hf, List.length_cons] at this
          omega
        exact ih (linkBounded_iff.2 (LinkWithin.takeSymbol sym ⟨hr, h.hold, h.kind, h.copy, h.request⟩))
    · exact h

/-- Every arrival keeps the link's bounds. -/
theorem LinkBounded.arrive (sym : Symbol) (h : LinkBounded s) : LinkBounded (s.arrive sym) := by
  unfold State.arrive
  split
  · exact h
  · split
    · rename_i hf
      exact LinkBounded.drainFifo _ ⟨by simpa [fifoPlaces] using hf, h.hold, h.kind, h.copy, h.request⟩
    · exact h.of_eq rfl rfl

theorem LinkBounded.arriveAll (syms : List Symbol) (h : LinkBounded s) : LinkBounded (s.arriveAll syms) := by
  induction syms generalizing s with
  | nil => exact h
  | cons sym rest ih => exact ih (h.arrive sym)

/-- The held unit presented again keeps them too. -/
theorem LinkBounded.presentHeld (h : LinkBounded s) : LinkBounded s.presentHeld := by
  unfold State.presentHeld
  split
  · exact h
  · rename_i x hx
    exact (linkBounded_iff.2 ((linkBounded_iff.1 h).present (h.hold x (by simp [hx])))).drainFifo _

theorem LinkBounded.presentLaneAgain (n : Fin 4) (h : LinkBounded s) : LinkBounded (s.presentLaneAgain n) := by
  unfold State.presentLaneAgain
  split
  · exact h.presentHeld
  · exact h

theorem LinkBounded.presentRequestAgain (h : LinkBounded s) : LinkBounded s.presentRequestAgain := by
  unfold State.presentRequestAgain
  split
  · exact h.presentHeld
  · exact h

theorem LinkBounded.retestClosing (n : Fin 4) (h : LinkBounded s) : LinkBounded (s.retestClosing n) := by
  unfold State.retestClosing
  split
  · exact (linkBounded_iff.2 ((linkBounded_iff.1 h).lane (.endClosing n s))).presentLaneAgain n
  · exact h

end Sys2Proof.Machine
end

