-- ==== Sys2Proof/Laws/Requests.lean ====
section
/-! SUPPORT. The execution of a whole request that the Request Unit has taken: its copy forwarded, its reply queued. -/

namespace Sys2Proof.Machine

variable {s : State}

/-- A reply is owed to one request more or less; no request is in progress. -/
def State.owing (k : Nat) (s : State) : State := s.withReq { s.req with inProgress := none, owed := k }

theorem State.writeHeader_owing (tag hi lo : Symbol) (k : Nat) :
    (s.owing k).writeHeader tag hi lo = ((s.writeHeader tag hi lo).1.owing k, (s.writeHeader tag hi lo).2) := by
  change (if s.transit.length + 3 ≤ transitPlaces then _ else _) = _
  unfold State.writeHeader
  split <;> rfl

theorem State.endTransit_owing (k : Nat) : (s.owing k).endTransit = s.endTransit.owing k := by
  unfold State.endTransit
  by_cases h : s.transit = []
  · rw [if_pos h, if_pos (by exact h)]
    change (match s.etx.current with
      | some { what := .transit _, .. } => (s.owing k).withEtx { s.etx with current := none }
      | _ => s.owing k) = _
    cases hc : s.etx.current with
    | none => rfl
    | some e => obtain ⟨w, j⟩ := e; cases w <;> rfl
  · rw [if_neg h, if_neg (by exact h)]; rfl

theorem State.writeData_owing (sym : Symbol) (w : Bool) (k : Nat) :
    (s.owing k).writeData sym w = ((s.writeData sym w).1.owing k, (s.writeData sym w).2) := by
  unfold State.writeData
  cases w with
  | false => rfl
  | true =>
    simp only [if_true]
    by_cases h : s.transit.length < transitPlaces
    · rw [if_pos h, if_pos (by exact h)]; rfl
    · rw [if_neg h, if_neg (by exact h), State.endTransit_owing]; rfl

theorem State.writeAll_owing (syms : List Symbol) (w : Bool) (k : Nat) :
    (s.owing k).writeAll syms w = ((s.writeAll syms w).1.owing k, (s.writeAll syms w).2) := by
  induction syms generalizing s w with
  | nil => rfl
  | cons sym rest ih => rw [State.writeAll, State.writeData_owing]; exact ih _

theorem State.writeCopySymbols_owing (copy : List Symbol) (cut : Bool) (k : Nat) :
    (s.owing k).writeCopySymbols copy cut = (s.writeCopySymbols copy cut).owing k := by
  unfold State.writeCopySymbols
  split
  · simp only [State.writeHeader_owing, State.writeAll_owing]
    split
    · exact State.endTransit_owing k
    · rfl
  · rfl

theorem State.writeAll_withLrx (syms : List Symbol) (w : Bool) (v : Lrx) :
    (s.withLrx v).writeAll syms w = ((s.writeAll syms w).1.withLrx v, (s.writeAll syms w).2) := by
  induction syms generalizing s w with
  | nil => rfl
  | cons sym rest ih => rw [State.writeAll, State.writeData_withLrx]; exact ih _

theorem State.writeCopySymbols_withLrx (copy : List Symbol) (cut : Bool) (v : Lrx) :
    (s.withLrx v).writeCopySymbols copy cut = (s.writeCopySymbols copy cut).withLrx v := by
  unfold State.writeCopySymbols
  split
  · simp only [State.writeHeader_withLrx, State.writeAll_withLrx]
    split
    · exact OffLink.endTransit _ v
    · rfl
  · rfl

/-- R142: the copy of a broadcast request, addressed to 31, as the request copy writes it. -/
theorem State.forwarded_eq (kind : Byte) (r : Request) (s : State) :
    s.forwarded kind r =
      if s.broadcasts r then
        s.writeCopySymbols ((requestUnitSymbols kind s.partAddress r).take copySymbols)
          (decide (copySymbols < r.length.toNat + 3))
      else s := by
  unfold State.forwarded
  by_cases hb : s.broadcasts r = true
  · have ha : (if r.broadcast then broadcastAddress else s.partAddress) = 31 := by
      simp only [State.broadcasts, Bool.or_eq_true, beq_iff_eq] at hb
      rcases hb with h | h
      · rw [if_pos h]; rfl
      · rw [h]; split <;> rfl
    simp only [hb, if_true, requestUnitSymbols, ha, lengthSymbols_eq, State.writeCopySymbols_eq]
    rfl
  · simp only [hb, Bool.false_eq_true, if_false]

/-- R142: the copy of a request that has been taken whole is written as its execution begins. -/
theorem State.taken_writeCopy (kind : Byte) (r : Request) (h : s.linkIdle) :
    (s.taken kind r).writeCopy = (s.forwarded kind r).owing (s.req.owed + 1) := by
  have e : s.taken kind r = ((s.owing (s.req.owed + 1)).withLrx (s.taken kind r).lrx) := rfl
  rw [State.writeCopy, e, State.withLrx_lrx, State.writeCopySymbols_withLrx, State.writeCopySymbols_owing,
    State.withLrx_withLrx]
  rw [State.forwarded_eq]
  by_cases hb : s.broadcasts r = true
  · have fr := TransitFrame.writeCopySymbols ((requestUnitSymbols kind s.partAddress r).take copySymbols)
      (decide (copySymbols < r.length.toNat + 3)) s
    simp only [State.taken, State.parsing, State.withReq_lrx, State.withLrx_lrx, hb, if_true, Bool.true_and]
    have : ∀ t : State, t.lrx = {} → t.withLrx {} = t := fun t ht => by rw [← ht]; rfl
    exact this _ (fr.lrx.trans h.1)
  · have : s.owing (s.req.owed + 1) = (s.owing (s.req.owed + 1)).withLrx {} := by
      conv_lhs => rw [← State.withLrx_self (s.owing (s.req.owed + 1))]
      rw [show (s.owing (s.req.owed + 1)).lrx = s.lrx from rfl, h.1]
    simp only [State.taken, State.parsing, State.withReq_lrx, State.withLrx_lrx, hb, Bool.false_eq_true, if_false,
      Bool.false_and, State.writeCopySymbols]
    exact this.symm

@[simp] theorem requestTag_recorded (kind : Byte) (r : Request) : requestTag (recorded kind r) = r.tag.value := by
  simp [requestTag, recorded, requestSyms, requestData, symValues, requestSymbols]

@[simp] theorem requestKindByte_recorded (kind : Byte) (r : Request) : requestKindByte (recorded kind r) = kind := by
  simp [requestKindByte, recorded, requestSyms, requestData, symValues, requestSymbols]

/-- R151: the answer to a request in execution, its reply owed until then. -/
theorem State.owing_reply (k : Nat) (t : State) (kind : Byte) (r : Request) (code : ReplyCode) (body : List Byte)
    (hk : t.req.owed = k) (hin : t.req.inProgress = none) :
    (t.owing (k + 1)).reply (recorded kind r) code body = t.replied kind r code body := by
  subst hk
  simp only [State.reply, State.answer, State.replied, State.owing, requestTag_recorded, requestKindByte_recorded,
    State.withReq_replies, State.withReq_req, Nat.add_sub_cancel]
  simp only [State.withReplies, State.withReq, ← hin]

theorem State.forwarded_frame (kind : Byte) (r : Request) (s : State) : TransitFrame s (s.forwarded kind r) := by
  rw [State.forwarded_eq]
  split
  · exact .writeCopySymbols _ _ s
  · exact .refl s

/-- R142, R150, R151: a whole request that fails a check changes nothing but the reply queue, and the Transit FIFO by its
copy if it is a broadcast one. -/
theorem State.arriveRequest_error (kind : Byte) (r : Request) (h : s.takesRequest kind r) (hw : wholeRequest r)
    (code : ReplyCode) (hc : requestCheck (recorded kind r) = .error code) :
    s.arriveRequest kind r = (s.forwarded kind r).replied kind r code [] := by
  have fr := State.forwarded_frame kind r s
  rw [State.arriveRequest_whole kind r h hw, State.execute, hc]
  simp only
  rw [State.taken_writeCopy kind r h.1, State.owing_reply _ _ kind r _ _ (by rw [fr.req]) (by rw [fr.req]; exact h.2.1)]

/-- R142, R150: a whole request that passes its checks is executed on the state after its copy is written, its reply
owed. -/
theorem State.arriveRequest_ok (kind : Byte) (r : Request) (h : s.takesRequest kind r) (hw : wholeRequest r)
    (k : RequestKind) (hc : requestCheck (recorded kind r) = .ok k) (hk : k ≠ .restartPart) :
    s.arriveRequest kind r =
      (match k with
        | .loadProfile => State.doLoadProfile (recorded kind r)
        | .readProfile => State.doReadProfile (recorded kind r)
        | .loadTone => State.doLoadTone (recorded kind r)
        | .readTone => State.doReadTone (recorded kind r)
        | .loadTimebase => State.doLoadTimebase (recorded kind r)
        | .readStatus => State.doReadStatus (recorded kind r)
        | .abortLane => State.doAbortLane (recorded kind r)
        | .reloadBoot => State.doReloadBoot (recorded kind r)
        | .restartPart => id) ((s.forwarded kind r).owing (s.req.owed + 1)) := by
  rw [State.arriveRequest_whole kind r h hw, State.execute, hc]
  cases k with
  | restartPart => exact absurd rfl hk
  | _ => simp only [State.taken_writeCopy kind r h.1]

end Sys2Proof.Machine
end

