-- ==== Sys2Proof/WellFormed.lean ====
section
/-! DEFINITION. When a command's operands are ones a sender can send: a unit carries no more data symbols than its L
(R135), and its L is one a correct sender uses (section 9.3). -/

namespace Sys2Proof

/-- Section 9.3: L runs from 0 to 4,095 from a correct sender. -/
def lengthOk (l : BitVec 16) : Bool := l.toNat ≤ 4095

/-- R136: the data symbols of a unit number at most its L; any more would be extra data and no part of it. -/
def ImageUnit.wellFormed (u : ImageUnit) : Bool :=
  lengthOk u.length && u.data.length ≤ u.length.toNat

/-- The request tag and kind are the first two data symbols (R168). -/
def Request.wellFormed (r : Request) : Bool :=
  lengthOk r.length && r.operands.length + 2 ≤ r.length.toNat

/-- A command whose unit, if it has one, is well formed. -/
def Instr.wellFormed : Instr → Bool
  | .itemOpen u | .line u | .itemClose u => u.wellFormed
  | .loadProfile r | .readProfile r | .loadTone r | .readTone r | .loadTimebase r
  | .readStatus r | .abortLane r | .restartPart r | .reloadBoot r => r.wellFormed
  | .powerOn _ | .resetAssert | .resetRelease _ | .symbolArrival _ | .stallExpiry _ | .closingQueue _
  | .presentHeldUnit | .dstopAssert | .dstopDeassert | .prescalerPulse | .tick | .emitUnitBegin
  | .unitEnd | .bootMemoryNoAnswer | .bootByteRead _ | .symbolSent => true

end Sys2Proof
end

