-- ==== Sys2Proof/Tests/Slice0.lean ====
section
/-! SUPPORT. Tests. The worked cases of the data book, a step or two for each command, and, for each statement with
hypotheses, a `witness_` theorem: a state and operands that meet them. Expected values come from the section named. -/

namespace Sys2Proof.Tests

open Sys2Proof.Machine

-- One theorem at a time: each waits for the kernel, and as many threads as theorems would wait with it.
set_option Elab.async false

/-! ## Small states -/

/-- The state a command leaves. -/
def after (c : Instr) (s : State) : State :=
  match exec c s with
  | .next t => t
  | _ => s

/-- An image unit whose data symbols all arrive. -/
def image (bytes : List Byte) : ImageUnit := ⟨BitVec.ofNat 16 bytes.length, bytes.map fun b => ⟨b, false⟩⟩

/-- A request with tag 9 and the given operands, all good. -/
def request (ops : List Byte) : Request :=
  { length := BitVec.ofNat 16 (ops.length + 2), tag := ⟨9, false⟩, operands := ops.map fun b => ⟨b, false⟩ }

/-- The record of section 1.9, with the limits of section 7.9. -/
def record : Record :=
  { bEnable := 1, sB := 1, eB := 32, vB := 1, bandCode := 3, mode := 1, tInit := 128, tMin := 64, tMax := 160, target := 38
    gEnable := 1, sG := 3, gDepth := 8, toneTable := 2, lMin := 200, lMax := 1200, dMin := 5, dMax := 300, zMin := 2000
    zMax := 200000, streakLimit := 1, stallLimit := 20 }

/-- The record of section 3.8: G alone, S_G 5, V_G 2. -/
def greyRecord : Record := { record with bEnable := 0, sG := 5, vG := 2 }

/-- A part with address 6 after its start-up, profiles 3 and 4 loaded. -/
def ready : State :=
  { State.reset with
    startUp := false
    boot := {}
    partAddress := 6
    tables := setProfile (setProfile State.reset.tables 3 record) 4 greyRecord }

/-- Section 1.9: lane 1, item 5,001, profile 3, side 0, class 0, W_in 1,700. -/
def item5001 : ImageUnit := image [1, 0, 0, 19, 137, 3, 0, 0, 6, 164]

/-- Section 3.8: lane 0, item 1, profile 4, W_in 16. -/
def item16 : ImageUnit := image [0, 0, 0, 0, 1, 4, 0, 0, 0, 16]

/-- The lane that the part's lane 0 is after that ITEM OPEN. -/
def greyLane : Lane := openedLane { item := 1, profile := 4, wIn := 16 } greyRecord 0 4 none {}

/-- A part with lane 0 in OPEN on that item. -/
def grey : State :=
  { ready with
    lanes := ready.lanes.set 0 greyLane
    tables := { ready.tables with inUse := ready.tables.inUse.set 2 1 } }

/-- A part with lane 0 in DISCARD. -/
def refused : State := ready.setLane 0 { state := .discard, reason := .noProfile, header := { item := 1, wIn := 16 } }

/-- A full output store: 655 result segments of 50 bytes, 18 bytes short of 32,768. -/
def fullStore : List Segment := List.replicate 655 ⟨.result 0 0 1, List.replicate 43 0⟩

/-- A part with lane 0 in CLOSING, its result composed, the store too full to take it. -/
def waiting : State :=
  ready.setLane 0 (compose 0 { state := .closing, reason := .noProfile, header := { item := 1, wIn := 16 }, store := fullStore })

/-- A part with eight replies queued. -/
def eightReplies : State := { ready with replies := List.replicate 8 ⟨.reply 1 6 .done 6, []⟩ }

/-- A part with one result segment of the given class at the head of the given lane's store. -/
def withResult (n : Fin 4) (cls : Nat) (s : State) : State :=
  s.setLane n { s.lane n with store := [⟨.result cls n 1, List.replicate 43 0⟩] }

/-- A part whose Boot Loader checks an image for a RELOAD BOOT with tag 9. -/
def reloading : State :=
  { ready with boot := checkPass .reload, req := { ready.req with bootRunning := some 9, owed := 1 } }

/-! ## WellFormed: each check refuses an ill-formed term -/

theorem test_wellFormed_accepts : (Instr.itemOpen item5001).wellFormed = true ∧ (Instr.readProfile (request [3])).wellFormed = true := by
  decide

theorem test_wellFormed_refuses_long_length : (Instr.line { length := 4096, data := [] }).wellFormed = false := by decide

theorem test_wellFormed_refuses_extra_data : (Instr.line { length := 1, data := [⟨0, false⟩, ⟨0, false⟩] }).wellFormed = false := by
  decide

theorem test_wellFormed_refuses_long_request :
    (Instr.readStatus { length := 4096, tag := ⟨0, false⟩, operands := [] }).wellFormed = false := by
  decide

theorem test_wellFormed_refuses_extra_operands :
    (Instr.readStatus { length := 2, tag := ⟨0, false⟩, operands := [⟨0, false⟩] }).wellFormed = false := by
  decide

/-! ## Symbols and formats (chapter 12) -/

/-- Section 12.1: a LINE for address 6 has tag value 38, a SEG CLOSE from address 6 has 198. -/
theorem test_tag_values : symValue (tagSymbol kindLine 6) = 38 ∧ symValue (tagSymbol kindSegClose 6) = 198 := by decide

/-- R167: tag 38 is 0b1001001100: three ones in 38, the marker, and a parity bit of 0. -/
theorem test_tag_bits : tagSymbol kindLine 6 = 0b1001001100#10 ∧ dataSymbol 7 = 0b0000001111#10 := by decide

theorem test_bad_byte_is_bad : parityError (dataByteSymbol ⟨5, true⟩) = true ∧ parityError (dataByteSymbol ⟨5, false⟩) = false := by
  decide

/-- Section 12.4: bits 8, 9 and 10 give 1,792, and bits 0, 2 and 4 give 21. -/
theorem test_flag_bits :
    procFlagBits { shortLines := true, longLines := true, pixelParity := true } = 1792 ∧
      qualityFlagBits { short := true, light := true, small := true } = 21 := by
  decide

/-- R120: the symbols on the port of a reply with an empty body: 10 + 6; of the STARTED notice: 10 + 4 + 6. -/
theorem test_port_symbols :
    (unitSymbols kindSegOpen 6 (headerBytes (.reply 1 6 .done 6))).length = 10 ∧
      (unitSymbols kindChunk 6 [0]).length = 4 ∧ (unitSymbols kindSegClose 6 (segCloseData 0 0)).length = 6 := by
  decide

/-- R89: header sizes 16, 14, 7 and 7. -/
theorem test_header_sizes :
    (headerBytes (.bBand 0 0 0 0 0 0 0 0 0)).length = 16 ∧ (headerBytes (.gGroup 0 0 0 0 0 0 0 0)).length = 14 ∧
      (headerBytes (.result 0 0 0)).length = 7 ∧ (headerBytes (.reply 0 0 .done 0)).length = 7 := by
  decide

/-! ## Span reduction (chapter 3) -/

/-- Sections 3.2.1, 3.2.2 and 3.8. -/
theorem test_width_rule :
    widthRule 1700 1 32 = (1133, 2) ∧ widthRule 1700 3 0 = (567, 2) ∧ widthRule 200 2 21 = (86, 3) ∧
      widthRule 201 2 21 = (87, 1) ∧ widthRule 16 5 0 = (4, 1) := by
  decide +kernel

/-- Section 3.2.2: the spans of positions 1 to 24 for S 2 and E 21. -/
theorem test_spans :
    (List.range 24).map (fun i => spanOf 2 21 (i + 1)) =
      [2, 3, 2, 2, 2, 3, 2, 3, 2, 3, 2, 2, 2, 3, 2, 2, 2, 3, 2, 2, 2, 3, 2, 3] := by
  decide

/-- Section 3.9. -/
theorem test_rounded_means :
    roundedMean 482 4 = 121 ∧ roundedMean 509 2 = 255 ∧ roundedMean 32640 128 = 255 ∧ roundedMean 1 3 = 0 ∧
      roundedMean 1 2 = 1 := by
  decide

/-- The three lines of section 3.8. -/
def line0 : List Byte := List.replicate 5 200 ++ List.replicate 5 40 ++ List.replicate 6 200
def line1 : List Byte := List.replicate 15 210 ++ [1]
def line2 : List Byte := 101 :: List.replicate 15 100

/-- A line taken by a channel, and its end. -/
def takeLine (ch : Channel) (line : List Byte) : Channel × Option (Nat × List Byte) :=
  channelLine (line.foldl (fun ch v => channelTake v ch) ch)

/-- Section 3.8: row 0 and the partial row 1. -/
theorem test_channel_rows :
    (takeLine (takeLine (channelFor 5 0 2 16) line0).1 line1).2 = some (0, [205, 125, 205, 101]) ∧
      (channelFinish (takeLine (takeLine (takeLine (channelFor 5 0 2 16) line0).1 line1).1 line2).1).2 =
        some (1, [100, 100, 100, 100]) := by
  decide +kernel

/-- Section 3.7: with V 1 even rows span 2 lines and odd rows 1. -/
theorem test_vertical_spans : (List.range 4).map (verticalSpan 1) = [2, 1, 2, 1] ∧ verticalSpan 2 0 = 2 ∧ verticalSpan 14 5 = 8 := by
  decide

/-! ## Bands and thresholds (chapters 4 and 5) -/

/-- Sections 4.4 and 4.5. -/
theorem test_pool_grants :
    poolGrant 131072 1133 32 = some 32 ∧ poolGrant 22304 1133 32 = some 16 ∧ poolGrant 65536 2048 32 = some 32 ∧
      poolGrant 0 1133 32 = none := by
  decide

/-- Sections 4.7 and 5.10: the two rows and their context. -/
def row0 : List Byte := 30 :: List.replicate 9 230
def row1 : List Byte := 45 :: 90 :: List.replicate 8 230
def bandRecord : Record := { record with despeckle := 1 }
def bandHistogram : Vector Nat 64 := histogramAdd (histogramAdd (Vector.replicate 64 0) row0) row1

theorem test_band_threshold :
    let c := thresholdContext bandRecord bandHistogram 2 10 128
    c.n = 20 ∧ c.k = 2 ∧ c.t = 22 ∧ c.trial = 23 ∧ c.tSeek = 88 ∧ c.tC = 88 ∧ c.clamped = false ∧ c.tBand = 108 := by
  decide +kernel

/-- Section 5.10: the bits after despeckle, and the streak mark of column 0 alone. -/
theorem test_band_rows :
    finishedRow bandRecord 108 row0 = true :: List.replicate 9 false ∧
      finishedRow bandRecord 108 row1 = true :: true :: List.replicate 8 false := by
  decide +kernel

/-- Section 5.11: the clamp and the blends of bands 0 to 3. -/
theorem test_blends :
    clampTo 96 176 240 = 176 ∧ blend 176 144 = 160 ∧ blend 148 160 = 154 ∧ blend 148 154 = 151 ∧ blend 148 151 = 150 := by
  decide

/-- Section 5.12. -/
theorem test_despeckle :
    despeckle [true, false, true, true, false, false, true, false, false, false, true, true] =
      [true, true, true, true, false, false, false, false, false, false, true, true] := by
  decide

/-! ## Row codes (chapter 6) -/

/-- R86: the table of run lengths. -/
theorem test_run_bytes :
    runBytes 0 = [0] ∧ runBytes 7 = [7] ∧ runBytes 127 = [127] ∧ runBytes 128 = [128, 1] ∧ runBytes 187 = [187, 1] ∧
      runBytes 2048 = [128, 16] := by
  decide

/-- Section 6.9: a row of runs white 3, black 3, white 14 is B_RUNS of 4 bytes, the tie with B_RAW going to B_RUNS; after
itself it is B_SAME, and a white row is B_WHITE even after a white row. -/
theorem test_b_row_codes :
    let row := List.replicate 3 false ++ List.replicate 3 true ++ List.replicate 14 false
    codeBRow none row = [3, 3, 3, 14] ∧ (codeRaw row).length = 4 ∧ codeBRow (some row) row = [2] ∧
      codeBRow (some (List.replicate 20 false)) (List.replicate 20 false) = [1] := by
  decide

/-- R87: pixel 0 in bit 7, padding 0: an alternating row of 10 pixels is shorter as B_RAW. -/
theorem test_b_raw :
    codeBRow none [true, false, true, false, true, false, true, false, true, false] = [4, 170, 128] := by
  decide

/-- R94: with 50 bytes free a segment of 50 bytes is queued; with 49 it is dropped. -/
theorem test_offer :
    let l := fun k : Nat => ({ store := List.replicate 3 ⟨.result 0 0 1, List.replicate 8169 0⟩ ++
      [⟨.result 0 0 1, List.replicate k 0⟩] } : Lane)
    let result : Segment := ⟨.result 0 0 2, List.replicate 43 0⟩
    (offer result (l 8183)).store.length = 5 ∧ (offer result (l 8183)).flags.outputLost = false ∧
      (offer result (l 8184)).store.length = 4 ∧ (offer result (l 8184)).flags.outputLost = true ∧
      (offer result (l 8184)).quality.dropped = 1 := by
  decide +kernel

/-- R142, R145: the copy of a broadcast READ STATUS, five symbols, with four places free: the fourth is its last, with an end
mark, and one overrun is counted. -/
theorem test_copy_truncated :
    let s := { ready with transit := List.replicate 4092 ⟨dataSymbol 0, false⟩ }
    let t := after (.readStatus { request [] with broadcast := true }) s
    t.transit.length = 4096 ∧ t.transit.getLast? = some ⟨dataSymbol 9, true⟩ ∧ t.req.txOverrun = 1 := by
  decide +kernel

/-- The identity tone table. -/
def identity : Vector Byte 256 := Vector.ofFn fun i => BitVec.ofNat 8 i.val

/-- Section 6.10: packing at depth 4, and G_SAME for equal packed rows. -/
theorem test_g_rows :
    packGRow identity 4 [255, 255, 121, 40, 255] = [255, 114, 240] ∧
      codeGRow' none (packGRow identity 4 [255, 255, 121, 40, 255]) = [5, 255, 114, 240] ∧
      codeGRow' (some [255, 114, 240]) (packGRow identity 4 [250, 252, 121, 47, 254]) = [6] := by
  decide +kernel

/-! ## Results (chapter 7) -/

/-- Section 7.10: D of 46,226 black pixels in 680 rows of 1,133. -/
theorem test_per_mille : blackPerMille 46226 680 1133 = 59 ∧ blackPerMille 0 0 0 = 0 := by decide

/-- Section 7.11: the record of a refused header: REJECT, BAD_HEADER, profile 4, side 1, class 1, 212 lines, W_in 3,000. -/
theorem test_refused_record :
    resultBytes (resultRecord
      { state := .discard, reason := .badHeader, header := { item := 812, profile := 4, side := 1, cls := 1, wIn := 3000 }
        lineCount := 212 }) =
      [3, 1, 0, 0, 0, 4, 1, 1, 0, 212, 11, 184] ++ List.replicate 31 0 := by
  decide +kernel

/-- Section 7.9: item 5,001 is SHORT, LIGHT and SMALL, and REVIEW. -/
theorem test_quality_flags :
    let l : Lane :=
      { snap := { record := some record, wOutB := 1133, wOutG := 567, h := 32, bActive := true, gActive := true }
        lineCount := 3, b := { rowIndex := 2 }, g := { rowIndex := 3 }
        quality := { z := 2, bands := 1, clamped := 1, streak := List.replicate 1133 false }
        flags := { shortLines := true, longLines := true, pixelParity := true } }
    qualityFlags l = { short := true, light := true, small := true } ∧
      dispositionOf l.reason l.flags (qualityFlags l) = .review := by
  decide +kernel

/-! ## The commands -/

/-- Section 1.9: the ITEM OPEN of item 5,001. -/
theorem test_item_open :
    let t := after (.itemOpen item5001) ready
    (t.lane 1).state = .opened ∧ (t.lane 1).snap.wOutB = 1133 ∧ (t.lane 1).snap.wOutG = 567 ∧ (t.lane 1).snap.h = 32 ∧
      t.pool = 94816 ∧ t.tables.inUse[(2 : Fin 4)] = 1 := by
  decide +kernel

/-- R5: an ITEM OPEN with W_in 3,000 goes to DISCARD with BAD_HEADER, one that names profile 5 with NO_PROFILE. -/
theorem test_item_open_refused :
    ((after (.itemOpen (image [3, 0, 0, 3, 44, 4, 1, 2, 11, 184])) ready).lane 3).reason = .badHeader ∧
      ((after (.itemOpen (image [3, 0, 0, 3, 44, 5, 1, 0, 0, 16])) ready).lane 3).reason = .noProfile := by
  decide +kernel

/-- Section 3.8: the column sums after line 0, and row 0 in the G group after line 1. -/
theorem test_line_sums :
    ((after (.line (image (0 :: line0))) grey).lane 0).g.sums = [1000, 200, 1000, 200] := by
  decide +kernel

/-- R11: a bad pixel 1 repeats pixel 0, and the line is short by 14 pixels. -/
theorem test_line_repairs :
    let l := (after (.line { length := 3, data := [⟨0, false⟩, ⟨7, false⟩, ⟨99, true⟩] }) grey).lane 0
    l.g.sums = [779, 1275, 1275, 255] ∧ l.parityPixels = 1 ∧ l.shortLines = 1 ∧ l.flags.pixelParity = true := by
  decide +kernel

/-- R13: a declared count of 1 where no line was counted is a COUNT_MISMATCH; the result is queued and the lane IDLE. -/
theorem test_item_close :
    let t := after (.itemClose (image [0, 0, 1])) grey
    (t.lane 0).state = .idle ∧ (t.lane 0).flags.countMismatch = true ∧ (t.lane 0).store.length = 1 ∧
      t.req.itemsCompleted[(0 : Fin 4)] = 1 ∧ t.tables.inUse[(2 : Fin 4)] = 0 := by
  decide +kernel

/-- R12: a LINE for an IDLE lane is a stray. -/
theorem test_stray_line : (after (.line (image [0, 7])) ready).req.stray = 1 := by decide +kernel

/-- A part with lane 0 in OPEN and ticks coming. -/
def ticking : State := grey.withTables { grey.tables with prescale := 1, divisor := 1 }

/-- R16: the expiry adds STALLED and ends the item. -/
theorem test_stall_expiry :
    ((after (.stallExpiry 0) ticking).lane 0).flags.stalled = true ∧ ((after (.stallExpiry 0) ticking).lane 0).state = .idle := by
  decide +kernel

/-- R15: a tick raises the stall timer of lane 0 alone. -/
theorem test_tick :
    ((after .tick ticking).lane 0).stallTimer = 1 ∧ ((after .tick ticking).lane 1).stallTimer = 0 := by
  decide +kernel

/-- R165: with divisor 1 every pulse is a tick. -/
theorem test_pulse : ((after .prescalerPulse ticking).lane 0).stallTimer = 1 := by decide +kernel

/-- Section 11.3.1: with code 4 the intervals are 3 and 2 in turn, with code 2 they are 2 and 1. -/
theorem test_pulse_intervals :
    [pulseInterval 4 false, pulseInterval 4 true, pulseInterval 2 false, pulseInterval 2 true, pulseInterval 1 false] =
      [3, 2, 2, 1, 1] := by
  decide

/-- R19: with 18 bytes free the lane waits; with an empty store it queues its result and enters IDLE. -/
theorem test_closing_queue :
    ((after (.closingQueue 0) waiting).lane 0).state = .closing ∧
      ((after (.closingQueue 0) (waiting.setLane 0 { waiting.lane 0 with store := [] })).lane 0).state = .idle := by
  decide +kernel

/-- R20: an abort in CLOSING adds ABORTED, and the lane goes on waiting. -/
theorem test_abort_closing :
    let l := (after (.abortLane (request [0])) waiting).lane 0
    l.flags.aborted = true ∧ l.state = .closing := by
  decide +kernel

/-- R21: an abort in OPEN ends the item, PARTIAL with ABORTED. -/
theorem test_abort_open :
    let t := after (.abortLane (request [0])) grey
    (t.lane 0).flags.aborted = true ∧ (t.lane 0).state = .idle ∧ t.replies.length = 1 := by
  decide +kernel

/-- A part that holds a LINE for lane 0, in CLOSING. -/
def holding : State := after (.line (image [0, 7])) waiting

/-- R141: the LINE is held with its lane symbol, its pixel waits, and USTOP# is asserted. -/
theorem test_hold :
    holding.lrx.hold.isSome = true ∧ holding.lrx.fifo.length = 1 ∧ holding.ustop = true := by
  decide +kernel

/-- R12, R141: presented again once the lane is IDLE, it is a stray, and its pixel is dropped with it. -/
theorem test_present_held :
    let t := after .presentHeldUnit (holding.setLane 0 {})
    t.lrx.hold = none ∧ t.req.stray = 1 ∧ t.lrx.fifo = [] ∧ t.req.extraData = 0 := by
  decide +kernel

/-- Section 9.9: a data symbol in WATCH is extra data; a damaged tag counts as one; a good tag begins a unit. -/
theorem test_symbols_in_watch :
    (after (.symbolArrival (dataSymbol 5)) ready).req.extraData = 1 ∧
      (after (.symbolArrival (tagSymbol 2 9 ^^^ 1)) ready).req.tagParity = 1 ∧
      (after (.symbolArrival (tagSymbol 2 9)) ready).lrx.parse = .header .transit (tagSymbol 2 9) none := by
  decide +kernel

/-- Section 9.9: the early tag of another unit makes the line of lane 0 a short one. -/
theorem test_early_tag :
    let s := after (.line { length := 17, data := ⟨0, false⟩ :: List.replicate 10 ⟨9, false⟩ }) grey
    ((after (.symbolArrival (tagSymbol 2 9)) s).lane 0).shortLines = 1 := by
  decide +kernel

/-- The 36 bytes of section 1.9's record, by the offsets of R171. -/
def recordList : List Byte :=
  [1, 1, 32, 1, 3, 1, 128, 64, 160, 38, 0, 1, 3, 0, 0, 8, 2, 0, 200, 4, 176, 0, 5, 1, 44, 0, 0, 7, 208, 0, 3, 13, 64, 0, 1,
    20]

theorem test_record_bytes : recordBytes record = recordList ∧ recordOfBytes recordList = record := by decide

/-- R27: the record loaded and valid. Section 2.9: T_init 40 below T_min 64 is refused, and index 17 too. -/
theorem test_load_profile :
    (after (.loadProfile (request (9 :: recordList))) ready).tables.profiles[(9 : Fin 16)] = ⟨true, record⟩ := by
  decide +kernel

theorem test_load_profile_refused :
    (after (.loadProfile (request (3 :: recordList.set 6 40))) ready).replies = [⟨.reply 9 1 .badValue 6, []⟩] ∧
      (after (.loadProfile (request (17 :: recordList))) ready).replies = [⟨.reply 9 1 .badIndex 6, []⟩] := by
  decide +kernel

theorem test_read_profile :
    (after (.readProfile (request [3])) ready).replies = [⟨.reply 9 2 .done 6, 1 :: recordList⟩] := by
  decide +kernel

/-- R32: table 1 inverted; table 2 in use on `grey`. -/
theorem test_load_tone :
    let inverse := (List.range 256).map fun i => BitVec.ofNat 8 (255 - i)
    (after (.loadTone (request (1 :: inverse))) ready).tables.tones[(1 : Fin 4)].toList = inverse ∧
      (after (.loadTone (request (2 :: inverse))) grey).replies = [⟨.reply 9 3 .inUse 6, []⟩] := by
  decide +kernel

theorem test_read_tone :
    (after (.readTone (request [2])) grey).replies.map (fun g => (g.body.length, g.body.getD 200 0, g.body.getD 256 0)) =
      [(257, 200, 1)] := by
  decide +kernel

theorem test_load_timebase :
    let t := after (.loadTimebase (request [4, 195, 80])) ready
    t.tables.prescale = 4 ∧ t.tables.divisor = 50000 ∧
      (after (.loadTimebase (request [32, 0, 1])) ready).replies = [⟨.reply 9 5 .badValue 6, []⟩] := by
  decide +kernel

/-- R154, R171: 74 bytes: address 6, lane 0 OPEN at offset 5, Band Pool free 0, 2, 0, 0 at 41; the flags are cleared. -/
theorem test_read_status :
    let t := after (.readStatus (request [])) (grey.withReq { grey.req with events := { tagParity := true } })
    t.replies.map (fun g => (g.body.length, g.body.getD 0 0, g.body.getD 5 0, (g.body.drop 41).take 4, g.body.getD 73 0)) =
        [(74, 6, 1, [0, 2, 0, 0], 1)] ∧
      t.req.events.tagParity = false := by
  decide +kernel

/-- Section 8.12: RESTART PART leaves the stack to be unwound, with STARTED pending; the first close carries 100 bytes. -/
theorem test_restart_part :
    let s := ready.withEtx { ready.etx with stack := [⟨.lane 3, 1, .chunk 0, 100⟩, ⟨.lane 1, 0, .chunk 3, 768⟩] }
    let t := after (.restartPart (request [])) s
    t.etx.unwinding = true ∧ t.etx.started = some (.request, 9) ∧ t.replies = [] ∧
      (after .emitUnitBegin t).etx.current =
        some ⟨.abandoned (unitSymbols kindSegClose 6 [0, 100, 1]), 1⟩ := by
  decide +kernel

theorem test_reload_boot :
    let t := after (.reloadBoot (request [])) ready
    t.boot.phase = .check ∧ t.req.bootRunning = some 9 ∧ t.req.owed = 1 ∧ t.ustop = true ∧
      (after (.reloadBoot (request [])) grey).replies = [⟨.reply 9 9 .busy 6, []⟩] := by
  decide +kernel

/-- R161, R164: a memory that does not answer gives NO_MEMORY; at start-up it ends the sequence, STARTED pending. -/
theorem test_boot_memory_no_answer :
    (after .bootMemoryNoAnswer reloading).replies = [⟨.reply 9 9 .noMemory 6, []⟩] ∧
      (after .bootMemoryNoAnswer State.reset).startUp = false ∧
      (after .bootMemoryNoAnswer State.reset).etx.started = some (.powerOn, 0) := by
  decide +kernel

/-- R162: the first mark byte is 67; any other is BAD_IMAGE. -/
theorem test_boot_byte_read :
    (after (.bootByteRead 67) reloading).boot.position = 1 ∧ (after (.bootByteRead 67) reloading).boot.sum = 67 ∧
      (after (.bootByteRead 68) reloading).replies = [⟨.reply 9 9 .badImage 6, []⟩] := by
  decide +kernel

/-- R161, R164: the mark's first byte acknowledged; a wrong one not, and a stop; a stop where RESTART PART cuts the load,
the wires released where RESET# does. -/
theorem test_boot_bus :
    (after (.bootByteRead 67) reloading).bus = .ack :: reloading.bus ∧
      (after (.bootByteRead 68) reloading).bus = .stop :: .noAck :: reloading.bus ∧
      (after (.restartPart (request [])) reloading).bus = .stop :: reloading.bus ∧
      (after .resetAssert reloading).bus = .released :: reloading.bus := by
  decide +kernel

/-- Section 12.5: an image of one profile and one tone table has 303 bytes. -/
theorem test_boot_image_length : (BootImage.bytes ⟨1, 1, [(3, record)], [(0, identity)]⟩).length = 303 := by decide +kernel

/-- R126: with nothing ready a FILL begins, three symbols, which UNIT_END sends. -/
theorem test_fill :
    (after .unitEnd (after .emitUnitBegin ready)).dtx = [dataSymbol 0, dataSymbol 0, tagSymbol 7 6] := by
  decide +kernel

/-- R122: class 1 goes before class 0, and sets its pointer. -/
theorem test_emit_highest_class :
    let t := after .emitUnitBegin (withResult 2 1 (withResult 0 0 ready))
    t.etx.stack = [⟨.lane 2, 1, .segOpen, 0⟩] ∧ t.etx.rr1 = 2 ∧ t.etx.rr0 = 3 := by
  decide +kernel

/-- R119, R120: the SEG OPEN begins with its tag; its next symbol; and its end: the resume point becomes CHUNK 0. -/
theorem test_symbol_sent :
    let s := after .emitUnitBegin (withResult 0 0 ready)
    s.dtx = [tagSymbol 4 6] ∧ (after .symbolSent s).dtx = [dataSymbol 0, tagSymbol 4 6] ∧
      (after .unitEnd s).etx.stack = [⟨.lane 0, 0, .chunk 0, 0⟩] := by
  decide +kernel

/-- R127: DSTOP# lets the symbol being sent finish, and no further one. -/
theorem test_dstop :
    let s := after .dstopAssert (after .emitUnitBegin ready)
    (after .symbolSent s).dtx.length = 2 ∧ (after .symbolSent (after .symbolSent s)).dtx.length = 2 ∧
      (after .dstopDeassert s).dstop = false := by
  decide +kernel

/-- R22, R131, R159: RESET# cuts everything; its release samples the straps. -/
theorem test_resets :
    (after .resetAssert grey).lanes = Vector.replicate 4 {} ∧ (after .resetAssert grey).ustop = true ∧
      (after (.resetRelease 17) (after .resetAssert grey)).partAddress = 17 ∧
      (after (.powerOn 30) grey).partAddress = 30 := by
  decide +kernel

/-! ## Witnesses: states and operands that meet the hypotheses of each statement -/

theorem ready_linkIdle : ready.linkIdle := ⟨rfl, rfl, rfl⟩
theorem ready_takes (kind : Byte) (r : Request) : ready.takesRequest kind r :=
  ⟨ready_linkIdle, rfl, by decide, fun h => absurd h.1 (by decide)⟩
theorem request_clean (ops : List Byte) : cleanRequest (request ops) ops := ⟨rfl, rfl, rfl⟩

/-- A data symbol without error. -/
def good (b : Byte) : DataByte := ⟨b, false⟩

theorem witness_ResetLineHoldsAndRestartsPart : (after .resetAssert ready).resetLine = true ∧ ready.resetLine = false := by
  decide +kernel

/-- A part inside the header of a LINE for it. -/
def inHeader : State := after (.symbolArrival (tagSymbol 1 6)) ready

/-- RESET# asserted; the FIFO one symbol short of full, and full; WATCH; a header without a length symbol; the second length
symbol of an own LINE, an own request, a broadcast one and a FILL, with L 256 and with L 0. -/
theorem witness_SymbolArrivesAndUnitBegins :
    ((after .resetAssert ready).resetLine = true ∧
      (let s := fun k => holding.withLrx { holding.lrx with fifo := List.replicate k (dataSymbol 0) }
       (s 63).resetLine = false ∧ (s 63).lrxFree = false ∧ (s 63).lrx.fifo.length < 64 ∧ (s 64).lrxFree = false ∧
         64 ≤ (s 64).lrx.fifo.length)) ∧
    (ready.lrxFree = true ∧ ready.lrx.fifo = [] ∧ ready.lrx.parse = .watch ∧
      inHeader.lrxFree = true ∧ inHeader.lrx.fifo = [] ∧ inHeader.lrx.parse = .header .own (tagSymbol 1 6) none ∧
      isTag (tagSymbol 2 6) = true ∧ parityError (dataByteSymbol ⟨0, true⟩) = true ∧
      isTag (dataByteSymbol ⟨0, true⟩) = false ∧ isTag (dataSymbol 0) = false ∧ parityError (dataSymbol 0) = false) ∧
    (∀ x ∈ [(UnitClass.own, tagSymbol 1 6), (.own, tagSymbol 3 6), (.broadcast, tagSymbol 3 31), (.dropped, tagSymbol 7 6)],
      let s : State := { ready with lrx := { parse := .header x.1 x.2 (some (dataSymbol 1)) } }
      s.lrxFree = true ∧ s.lrx.fifo = [] ∧ classify 6 x.2 = x.1 ∧ x.1 ≠ .transit) ∧
    lengthOf (dataSymbol 1) (dataSymbol 0) = 256 ∧ lengthOf (dataSymbol 0) (dataSymbol 0) = 0 ∧
    tagKind (tagSymbol 1 6) ≠ 3 := by
  decide +kernel

/-- A transit unit at its second length symbol with 4,093 and with 4,094 symbols in the FIFO, and one at a data symbol with
4,095 and with 4,096. -/
def inTransit (k : Nat) (p : Parse) : State :=
  { ready with lrx := { parse := p }, transit := List.replicate k ⟨dataSymbol 0, false⟩ }

theorem witness_TransitSymbolsWrittenOrCounted :
    let hd : Parse := .header .transit (tagSymbol 1 9) (some (dataSymbol 0))
    let body : Parse := .body ⟨.transit, tagSymbol 1 9, dataSymbol 0, dataSymbol 2, 0 + 1, .transit true⟩
    (∀ k ∈ [4093, 4094], (inTransit k hd).lrxFree = true ∧ (inTransit k hd).lrx.fifo = [] ∧ (inTransit k hd).lrx.parse = hd) ∧
      (∀ k ∈ [4095, 4096], (inTransit k body).lrxFree = true ∧ (inTransit k body).lrx.parse = body) ∧
      isTag (dataSymbol 2) = false ∧ parityError (dataSymbol 2) = false := by
  decide +kernel

/-- A part whose Request Unit takes a request of the given kind and L, two operand bytes recorded, one symbol to come. -/
def inRequest (kind : Byte) (len : Nat) : State :=
  { ready with
    lrx := { parse := .body ⟨.own, tagSymbol 3 6, dataSymbol 0, dataSymbol (BitVec.ofNat 8 len), 1, .request⟩ }
    req :=
      { ready.req with
        owed := 1
        inProgress := some { length := len, data := [9, kind, 0, 1].map dataSymbol, received := 4 } } }

/-- A part `s` in a unit of the given kind that passes its data symbols to `dest`, with lane 0 taking `taking`. -/
def inUnit (dest : Dest) (taking : Taking) (kind : BitVec 3 := 0) (remaining : Nat := 2) (s : State := grey) : State :=
  { s.setLane 0 { s.lane 0 with taking := taking } with
    lrx := { parse := .body ⟨.own, tagSymbol kind 6, dataSymbol 0, dataSymbol 9, remaining, dest⟩ } }

/-- A FILL's symbol, with another to come and as its last; no lane symbol, lane 4, a LINE for the IDLE lane 1; an ITEM OPEN
for lane 1; a LINE one below the cap and at it; a lane in OPEN and one in DISCARD. In the lane: a unit that it drops; the
ninth and the tenth header symbol, W_in 16 and 15, profile 4 and 5, and an end after nine; pixels 14, 15 and 16 of 16; the
first and the second count symbol, which agrees or not. A request's tag symbol; its kind symbol with eight replies queued,
with none, and RELOAD BOOT's while one runs; a symbol after them. -/
theorem witness_DataSymbolTakenByItsUnit :
    (∀ s ∈ [inUnit .drop .none, inUnit .drop .none 0 1, inUnit .awaitLane .none 1, inUnit .awaitLane .none 0,
        inUnit (.lane 0) .dropping, inUnit (.awaitKind []) .none 3, inRequest 5 5],
      s.lrxFree = true ∧ s.lrx.fifo = []) ∧
    (3 < (good 4).value.toNat ∧ (grey.lane (Fin.ofNat 4 (good 1).value.toNat)).state = .idle ∧
      (good 1).value.toNat = (1 : Fin 4).val ∧ (grey.lane 1).state = .idle ∧ grey.req.bootRunning = none ∧
      (grey.lane 0).state = .opened ∧ (refused.lane 0).state = .discard ∧ tagKind (tagSymbol 1 6) = 1 ∧
      (greyLane.lineCount < 4096) ∧ tagKind (tagSymbol 2 6) = 2) ∧
    (∀ x ∈ [Taking.none, .dropping, .header ((item16.data.take 8).map dataByteSymbol),
        .header ((item16.data.take 9).map dataByteSymbol), .line 14 7, .line 15 7, .line 16 7,
        .close ([good 0].map dataByteSymbol), .close ([good 0, good 0].map dataByteSymbol)],
      ((inUnit (.lane 0) x).lane 0).taking = x ∧ ((inUnit (.lane 0) x).lane 0).header.wIn.toNat = 16 ∧
        ((inUnit (.lane 0) x).lane 0).state = .opened) ∧
    (¬headerRefused (item16.data.take 9 ++ [good 16]) ∧ headerRefused (item16.data.take 9 ++ [good 15]) ∧
      headerRefused (item16.data.take 8 ++ [good 0]) ∧
      (let valid := fun data => ready.tables.profiles[Fin.ofNat 16 (receivedHeader data).profile.toNat].valid
       valid (item16.data.take 9 ++ [good 16]) = true ∧
        valid ((image [0, 0, 0, 0, 1, 5, 0, 0, 0]).data ++ [good 16]) = false)) ∧
    (receivedField [good 0, good 0, good 0] 1 2 = greyLane.lineCount ∧
      receivedField [good 0, good 0, good 1] 1 2 ≠ greyLane.lineCount) ∧
    (tagKind (tagSymbol 3 6) = 3 ∧ 8 ≤ eightReplies.replies.length + eightReplies.req.owed ∧
      ready.replies.length + ready.req.owed < 8 ∧ reloading.req.bootRunning.isSome = true ∧ (good 9).value = 9 ∧
      (inRequest 5 5).req.inProgress.isSome = true) := by
  unfold headerRefused
  decide +kernel

/-- A FILL's data; a transit unit with its last symbol in the FIFO, and sent; no lane symbol; nine header symbols; a line one
pixel short, and a whole one; a close with one count symbol. -/
theorem witness_UnitEndedEarlyByTag :
    isTag (tagSymbol 1 6) = true ∧
    (∀ d ∈ [Dest.drop, .transit false, .transit true, .awaitLane],
      (inUnit d .none).lrxFree = true ∧ (inUnit d .none).lrx.fifo = [] ∧ (inUnit d .none).transit = [] ∧
        ((inUnit d .none).withTransit [⟨dataSymbol 9, false⟩]).transit = [] ++ [⟨dataSymbol 9, false⟩]) ∧
    (∀ x ∈ [Taking.none, .dropping, .header ((item16.data.take 9).map dataByteSymbol), .line 15 7, .line 16 7,
        .close [dataSymbol 0, dataSymbol 1]],
      (inUnit (.lane 0) x).lrxFree = true ∧ ((inUnit (.lane 0) x).lane 0).taking = x ∧
        ((inUnit (.lane 0) x).lane 0).header.wIn.toNat = 16 ∧ ((inUnit (.lane 0) x).lane 0).state = .opened) ∧
    (item16.data.take 9).length < 10 ∧ [dataSymbol 0, dataSymbol 1].length < 3 := by
  decide +kernel

theorem witness_ItemOpenOpensItem :
    ready.linkIdle ∧ ready.partAddress ≠ 31 ∧ ready.req.bootRunning = none ∧ (ready.lane 1).state = .idle ∧
      wholeImage item5001 ∧ item5001.data = good 1 :: item5001.data.tail ∧ (good 1).bad = false ∧
      (good 1).value.toNat = (1 : Fin 4).val ∧ ¬headerRefused item5001.data ∧
      ready.tables.profiles[Fin.ofNat 16 (receivedHeader item5001.data).profile.toNat].valid = true := by
  unfold State.linkIdle wholeImage headerRefused
  decide +kernel

/-- W_in 15 is refused by the header's checks; profile 5 is not valid. -/
theorem witness_ItemOpenRefusedDiscards :
    (let u := image [1, 0, 0, 19, 137, 3, 0, 0, 0, 15]
     wholeImage u ∧ u.data = good 1 :: u.data.tail ∧ headerRefused u.data) ∧
    (let u := image [1, 0, 0, 19, 137, 5, 0, 0, 0, 16]
     wholeImage u ∧ u.data = good 1 :: u.data.tail ∧ ¬headerRefused u.data ∧
       ready.tables.profiles[Fin.ofNat 16 (receivedHeader u.data).profile.toNat].valid = false) := by
  unfold wholeImage headerRefused
  decide +kernel

/-- A lane in OPEN and one in DISCARD whose stores have room, and one in DISCARD whose store is too full. -/
theorem witness_ItemOpenSupersedes :
    (∀ s ∈ [grey, refused, refused.setLane 0 { refused.lane 0 with store := fullStore }],
      s.linkIdle ∧ s.partAddress ≠ 31 ∧ s.req.bootRunning = none) ∧
    wholeImage item16 ∧ item16.data = good 0 :: item16.data.tail ∧ (good 0).value.toNat = (0 : Fin 4).val ∧
    (let ends := fun s : State =>
      ((s.itemEnds 0 { s.lane 0 with flags := { (s.lane 0).flags with superseded := true } }).lane 0).state
     (grey.lane 0).state = .opened ∧ ends grey = .idle ∧ (refused.lane 0).state = .discard ∧ ends refused = .idle ∧
       ends (refused.setLane 0 { refused.lane 0 with store := fullStore }) ≠ .idle) := by
  unfold State.linkIdle wholeImage
  decide +kernel

/-- A lane in CLOSING, and an IDLE lane while RELOAD BOOT runs. -/
theorem witness_ImageUnitHeld :
    waiting.linkIdle ∧ waiting.partAddress ≠ 31 ∧ wholeImage item16 ∧ item16.data = good 0 :: item16.data.tail ∧
      (waiting.lane 0).state = .closing ∧ reloading.linkIdle ∧ reloading.partAddress ≠ 31 ∧
      reloading.req.bootRunning.isSome = true := by
  unfold State.linkIdle wholeImage
  decide +kernel

/-- No lane symbol, a bad one, lane 4, and a LINE for an IDLE lane. -/
theorem witness_StrayUnitCounted :
    ready.linkIdle ∧ ready.partAddress ≠ 31 ∧ wholeImage (image []) ∧ (image []).data = [] ∧
      wholeImage { length := 1, data := [⟨0, true⟩] } ∧ wholeImage (image [4]) ∧ 3 < (good 4).value.toNat ∧
      (Instr.line (image [3]), (1 : BitVec 3)) ∈
        [(Instr.itemOpen (image [3]), 0), (.line (image [3]), 1), (.itemClose (image [3]), 2)] ∧
      (ready.lane (Fin.ofNat 4 (good 3).value.toNat)).state = .idle := by
  unfold State.linkIdle wholeImage
  decide +kernel

theorem witness_AddressThirtyOneForwardsImages :
    ({ ready with partAddress := 31 } : State).linkIdle ∧ ({ ready with partAddress := 31 } : State).partAddress = 31 ∧
      wholeImage item16 :=
  ⟨⟨rfl, rfl, rfl⟩, rfl, by unfold wholeImage; decide⟩

/-- Lane 0 of `grey` with a given line count. -/
def greyAt (lines : Nat) : State := grey.setLane 0 { greyLane with lineCount := lines }

theorem witness_LineCountedAndPassed :
    (greyAt 4095).linkIdle ∧ (greyAt 4095).partAddress ≠ 31 ∧ ((greyAt 4095).lane 0).state = .opened ∧
      ((greyAt 4095).lane 0).lineCount < 4096 ∧ 1 ≤ ((greyAt 4095).lane 0).header.wIn.toNat ∧ wholeImage (image [0]) ∧
      (image [0]).data = good 0 :: [] ∧ (good 0).bad = false ∧ (good 0).value.toNat = (0 : Fin 4).val := by
  unfold State.linkIdle wholeImage
  decide +kernel

theorem witness_LineCappedOrDiscarded :
    ((greyAt 4096).linkIdle ∧ ((greyAt 4096).lane 0).state = .opened ∧ 4096 ≤ ((greyAt 4096).lane 0).lineCount) ∧
    (let s := fun k => refused.setLane 0 { refused.lane 0 with lineCount := k }
     (s 4096).linkIdle ∧ ((s 4096).lane 0).state = .discard ∧ 4096 ≤ ((s 4096).lane 0).lineCount ∧
       (s 4095).linkIdle ∧ ((s 4095).lane 0).state = .discard ∧ ((s 4095).lane 0).lineCount < 4096) := by
  unfold State.linkIdle
  decide +kernel

/-- A declared count of 0 and one of 1 where no line was counted; a unit without one; a lane in DISCARD. -/
theorem witness_ItemCloseEndsItem :
    grey.linkIdle ∧ grey.partAddress ≠ 31 ∧ (grey.lane 0).state = .opened ∧ refused.linkIdle ∧
      (refused.lane 0).state = .discard ∧ wholeImage (image [0, 0, 0]) ∧
      (image [0, 0, 0]).data = good 0 :: good 0 :: good 0 :: [] ∧
      256 * (good 0).value.toNat + (good 0).value.toNat = (grey.lane 0).lineCount ∧ wholeImage (image [0, 0, 1]) ∧
      256 * (good 0).value.toNat + (good 1).value.toNat ≠ (grey.lane 0).lineCount ∧ wholeImage (image [0]) := by
  unfold State.linkIdle wholeImage
  decide +kernel

/-- A timer that cannot expire (no ticks); one that can, between units, within a line, and at a line's last pixel. -/
theorem witness_StallExpiryEndsItem :
    ((grey.lane 0).state = .opened ∧ 20 = (snapRecord (grey.lane 0).snap).stallLimit.toNat ∧ grey.tables.prescale = 0) ∧
    (let s := fun t => ticking.setLane 0 { greyLane with taking := t }
     ((s .none).lane 0).state = .opened ∧ (s .none).tables.prescale ≠ 0 ∧ (s .none).ustop = false ∧
       (15 < ((s (.line 15 7)).lane 0).header.wIn.toNat) ∧ (s (.line 15 7)).ustop = false ∧
       ((s (.line 16 7)).lane 0).header.wIn.toNat ≤ 16 ∧ (s (.line 16 7)).ustop = false) ∧
    (let s := refused.withTables { refused.tables with prescale := 1 }
     (s.lane 0).state = .discard ∧ s.tables.prescale ≠ 0 ∧ s.ustop = false) := by
  decide +kernel

/-- A lane without room; one with room, and one with a LINE held for it besides; an IDLE lane. -/
theorem witness_ClosingLaneQueuesWhenRoom :
    (let roomy := fun s : State => s.setLane 0 { s.lane 0 with store := [] }
     (∀ s ∈ [waiting, roomy waiting, roomy holding],
       (s.lane 0).state = .closing ∧ (s.lane 0).quality.composed.isSome = true) ∧
     ((waiting.closingTested 0 (waiting.lane 0)).lane 0).state ≠ .idle ∧ (roomy waiting).lrx.hold = none ∧
     (((roomy holding).closingTested 0 ((roomy holding).lane 0)).lane 0).state = .idle ∧ (roomy holding).holdsFor 0) ∧
    ¬((ready.lane 0).state = .closing ∧ (ready.lane 0).quality.composed.isSome = true) := by
  refine ⟨⟨by decide +kernel, by decide +kernel, by decide +kernel, by decide +kernel, ?_⟩, by decide +kernel⟩
  have h : holding.lrx.hold = some (heldImage 1 6 2 (dataSymbol 0) 1) := by decide +kernel
  exact ⟨_, h, by decide +kernel, dataSymbol 0, rfl, by decide +kernel⟩

/-- A part that holds an ITEM OPEN for lane 0, now IDLE, its nine further symbols waiting. -/
def holdingOpen : State := (after (.itemOpen item16) waiting).setLane 0 {}

/-- A part that holds a READ PROFILE, its operand waiting, with a place for its reply. -/
def holdingRequest : State := (after (.readProfile (request [3])) eightReplies).withReplies []

/-- Nothing held; an ITEM OPEN and a LINE held with their further symbols waiting, their lane IDLE or in CLOSING; an ITEM OPEN
of one symbol; a request with its operand waiting, refused by eight replies, and one whose end has passed. -/
theorem witness_HeldUnitPresentedAgain :
    ready.lrx.hold = none ∧
    (let s := holdingOpen
     s.resetLine = false ∧ s.startUp = false ∧ s.partAddress ≠ 31 ∧ wholeImage item16 ∧
       item16.data = good 0 :: item16.data.tail ∧ item16.data.tail.length ≤ 64 ∧
       s.lrx =
         { fifo := item16.data.tail.map dataByteSymbol
           hold := some (heldImage 0 s.partAddress item16.length (dataByteSymbol (good 0)) item16.data.tail.length) } ∧
       (s.lane 0).state = .idle ∧ s.req.bootRunning = none) ∧
    (let s := holdingRequest
     (s.withLrx {}).takesRequest 2 (request [3]) ∧ wholeRequest (request [3]) ∧ (request [3]).operands.length ≤ 64 ∧
       s.lrx =
         { fifo := (request [3]).operands.map dataByteSymbol, hold := some (s.heldRequest 2 (request [3])) }) ∧
    (holding.lrx.hold.map (fun h => (h.data, decide (tagKind h.unit.tag ≠ 3))) = some ([dataSymbol 0], true) ∧
      (symValue (dataSymbol 0)).toNat = (0 : Fin 4).val ∧ (holding.lane 0).state = .closing ∧
      ((holding.setLane 0 {}).lane 0).state = .idle) ∧
    (holdingOpen.lrx.hold.map Held.ended = some false ∧
      (after (.itemOpen (image [0])) waiting).lrx.hold.map Held.ended = some true) ∧
    (holdingRequest.lrx.hold.map (fun h => (tagKind h.unit.tag, h.ended)) = some (3, false) ∧
      8 ≤ (after (.readProfile (request [3])) eightReplies).replies.length ∧ holdingRequest.req.bootRunning = none) ∧
    (let s := (after (.readStatus (request [])) eightReplies).withReplies []
     s.lrx.hold.map (fun h => (h.ended, decide (lengthOf h.unit.hi h.unit.lo ≤ h.data.length))) = some (true, true) ∧
       s.replies.length + s.req.owed < 8) ∧
    (let s := (after (.symbolArrival (tagSymbol 1 6))
        (after (.symbolArrival (dataSymbol 2)) (after (.symbolArrival (dataSymbol 0))
          (after (.symbolArrival (tagSymbol 3 6)) eightReplies)))).withReplies []
     s.lrx.hold.map (fun h => (h.ended, h.data, h.unit.remaining)) = some (true, [], 0)) := by
  refine ⟨rfl, ?_, ?_, by decide +kernel, by decide +kernel, by decide +kernel, by decide +kernel, by decide +kernel⟩
  · unfold wholeImage; decide +kernel
  · unfold State.takesRequest State.linkIdle wholeRequest; decide +kernel

/-- Lane 1 of section 1.9 with 31 rows in its band store of 32, and `grey`'s lane 0. -/
theorem witness_ClosingWorkFinishesOutput :
    (∀ l ∈ [greyLane,
        { openedLane { item := 5001, profile := 3, wIn := 1700 } record 1133 567 (some 32) {} with
          band := { active := true, rows := List.replicate 31 (List.replicate 1133 255), tPrev := 128 } }],
      l.state = .opened ∧ l.coder.finalB = none ∧ l.coder.finalG = none ∧ l.coder.group.length < 4 ∧
        (l.band.active = true → l.band.rows.length < l.snap.h) ∧ (l.band.active = false → l.band.rows = []) ∧
        (l.coder.groupOpen = false → l.coder.group = [])) := by
  decide +kernel

/-- A bad tag; a bad kind; a wrong length; a bad operand. -/
theorem witness_RequestChecksInOrder :
    (let r : Request := { request [3] with tag := ⟨9, true⟩ }
     ready.takesRequest 2 r ∧ wholeRequest r ∧ r.tag.bad = true) ∧
    (let r : Request := { request [3] with kindBad := true }
     ready.takesRequest 2 r ∧ wholeRequest r ∧ r.kindBad = true) ∧
    (let r := request [3, 3]
     ready.takesRequest 2 r ∧ wholeRequest r ∧ r.tag.bad = false ∧ r.kindBad = false ∧ r.length.toNat ≠ 3) ∧
    (let r : Request := { request [3] with operands := [⟨3, true⟩] }
     ready.takesRequest 2 r ∧ wholeRequest r ∧ r.length.toNat = 3 ∧ ∃ d ∈ r.operands, d.bad = true) := by
  refine ⟨⟨ready_takes _ _, ?_, rfl⟩, ⟨ready_takes _ _, ?_, rfl⟩, ⟨ready_takes _ _, ?_, rfl, rfl, by decide⟩,
    ⟨ready_takes _ _, ?_, by decide, by decide⟩⟩ <;> · unfold wholeRequest; decide

/-- No reply place; a RELOAD BOOT while one runs. -/
theorem witness_RequestHeldWhileRefused :
    (eightReplies.linkIdle ∧ 8 ≤ eightReplies.replies.length + eightReplies.req.owed ∧ wholeRequest (request [3])) ∧
      reloading.linkIdle ∧ wholeRequest (request []) ∧ (request []).kindBad = false ∧
      reloading.req.bootRunning.isSome = true := by
  unfold State.linkIdle wholeRequest
  decide +kernel

/-- Each code: kind 0 and kind 10 at the last symbol; a READ STATUS of five symbols; a LOAD TIMEBASE with a bad operand; a
bad tag symbol; one symbol in all. A LOAD TIMEBASE cut by a tag one symbol early. A unit of L 0, of L 1, and one cut before
its kind, with a reply place and with none. -/
theorem witness_RequestRefusedAtItsEnd :
    (∀ s ∈ [inRequest 0 5, inRequest 10 5, inRequest 6 5, inRequest 5 5], s.lrxFree = true ∧ s.lrx.fifo = []) ∧
    (let got := fun (kind : Byte) (last : Sys2Proof.Symbol) =>
      ({ length := 5, data := [9, kind, 0, 1].map dataSymbol ++ [last], received := 5 } : RequestInProgress)
     requestFails (got 0 (dataSymbol 0)) .badKind ∧ requestFails (got 10 (dataSymbol 0)) .badKind ∧
       requestFails (got 6 (dataSymbol 0)) .badLength ∧ requestFails (got 5 (dataByteSymbol ⟨0, true⟩)) .badParity ∧
       requestFails { got 5 (dataSymbol 0) with data := [dataByteSymbol ⟨9, true⟩, dataSymbol 5] } .badParity ∧
       requestFails { length := 5, data := [dataSymbol 9], received := 1 } .badLength ∧
       requestFails { length := 5, data := [9, 5, 0, 1].map dataSymbol, received := 4 } .badLength) ∧
    (let s := fun p : Parse => { ready with lrx := { parse := p } }
     (s (.header .own (tagSymbol 3 6) (some (dataSymbol 0)))).lrxFree = true ∧ tagKind (tagSymbol 3 6) = 3 ∧
       lengthOf (dataSymbol 0) (dataSymbol 0) = 0 ∧ ready.replies.length + ready.req.owed < 8 ∧
       (s (.body ⟨.own, tagSymbol 3 6, dataSymbol 0, dataSymbol 1, 1, .awaitKind []⟩)).lrxFree = true ∧
       isTag (tagSymbol 1 6) = true ∧ [dataSymbol 9].length < 2 ∧
       8 ≤ eightReplies.replies.length + eightReplies.req.owed) := by
  have mem : (5, 5) ∈ requestLengths ∧ (6, 2) ∈ requestLengths := by decide
  refine ⟨by decide +kernel, ⟨?_, ?_, ?_, ?_, ?_, ?_, ?_⟩, by decide +kernel⟩
  · exact .inr (.inr (.inl (by decide +kernel)))
  · exact .inr (.inr (.inl (by decide +kernel)))
  · exact .inr (.inr (.inr (.inl ⟨rfl, by decide +kernel, 2, mem.2, .inl (by decide)⟩)))
  · exact .inr (.inr (.inr (.inr ⟨rfl, by decide +kernel, mem.1, rfl, by decide +kernel⟩)))
  · exact .inr (.inl (by decide +kernel))
  · exact .inl (by decide +kernel)
  · exact .inr (.inr (.inr (.inl ⟨rfl, by decide +kernel, 5, mem.1, .inr (by decide)⟩)))

/-- Index 15 and index 16; an acceptable record and one that is not. -/
theorem witness_LoadProfileReplacesRecord :
    (∀ i ∈ [(15 : Byte), 16], ready.takesRequest 1 (request (i :: recordList)) ∧ wholeRequest (request (i :: recordList)) ∧
      cleanRequest (request (i :: recordList)) (i :: recordList)) ∧
    recordList.length = 36 ∧ 15 < (16 : Byte).toNat ∧ (15 : Fin 16).val = (15 : Byte).toNat ∧
    acceptable (recordOfBytes recordList) ∧ ¬acceptable (recordOfBytes (recordList.set 6 40)) := by
  refine ⟨fun i _ => ⟨ready_takes _ _, rfl, request_clean _⟩, rfl, ?_⟩
  unfold acceptable
  decide +kernel

theorem witness_ReadsReportTables :
    (∀ i : Byte, wholeRequest (request [i]) ∧ cleanRequest (request [i]) [i] ∧ ready.takesRequest 2 (request [i]) ∧
      ready.takesRequest 4 (request [i])) ∧
    15 < (16 : Byte).toNat ∧ (15 : Fin 16).val = (15 : Byte).toNat ∧ 3 < (4 : Byte).toNat ∧
    (3 : Fin 4).val = (3 : Byte).toNat :=
  ⟨fun _ => ⟨rfl, request_clean _, ready_takes _ _, ready_takes _ _⟩, by decide⟩

/-- Index 4; table 3 not in use; table 2 in use on `grey`. -/
theorem witness_LoadToneReplacesTable :
    (∀ i ∈ [(3 : Byte), 4], ready.takesRequest 3 (request (i :: identity.toList)) ∧
      wholeRequest (request (i :: identity.toList)) ∧
      cleanRequest (request (i :: identity.toList)) (i :: identity.toList)) ∧
    ready.tables.inUse[(3 : Fin 4)] = 0 ∧ 3 < (4 : Byte).toNat ∧
    grey.takesRequest 3 (request (2 :: identity.toList)) ∧ 0 < grey.tables.inUse[(2 : Fin 4)] :=
  ⟨fun _ _ => ⟨ready_takes _ _, by simp [wholeRequest, request], request_clean _⟩, by decide, by decide,
    ⟨⟨rfl, rfl, rfl⟩, rfl, by decide, fun h => absurd h.1 (by decide)⟩, by decide⟩

/-- Code 31 and code 32; divisor 1 and divisor 0. -/
theorem witness_LoadTimebaseReplacesSetting :
    (∀ c lo : Byte, ready.takesRequest 5 (request [c, 0, lo]) ∧ wholeRequest (request [c, 0, lo]) ∧
      cleanRequest (request [c, 0, lo]) [c, 0, lo]) ∧
    (31 : Byte).toNat ≤ 31 ∧ 31 < (32 : Byte).toNat ∧ 256 * (0 : Byte).toNat + (1 : Byte).toNat ≠ 0 ∧
    256 * (0 : Byte).toNat + (0 : Byte).toNat = 0 :=
  ⟨fun _ _ => ⟨ready_takes _ _, rfl, request_clean _⟩, by decide⟩

theorem witness_ReadStatusReports :
    ready.takesRequest 6 (request []) ∧ wholeRequest (request []) ∧ cleanRequest (request []) [] :=
  ⟨ready_takes _ _, rfl, request_clean _⟩

/-- Lane 3 and lane 4; lane 0 in each state, and in CLOSING with ABORTED set. -/
theorem witness_AbortLaneEndsItem :
    (∀ i : Byte, wholeRequest (request [i]) ∧ cleanRequest (request [i]) [i]) ∧
    (∀ s ∈ [ready, grey, refused, waiting], s.takesRequest 7 (request [0])) ∧
    3 < (4 : Byte).toNat ∧ (3 : Fin 4).val = (3 : Byte).toNat ∧ (grey.lane 0).state = .opened ∧
    (refused.lane 0).state = .discard ∧ (waiting.lane 0).state = .closing ∧ (waiting.lane 0).flags.aborted = false ∧
    (ready.lane 0).state = .idle ∧
    ((after (.abortLane (request [0])) waiting).lane 0).flags.aborted = true := by
  refine ⟨fun _ => ⟨rfl, request_clean _⟩, ?_, by decide +kernel⟩
  unfold State.takesRequest State.linkIdle
  decide +kernel

theorem witness_RestartPartRestarts :
    ready.takesRequest 8 (request []) ∧ wholeRequest (request []) ∧ cleanRequest (request []) [] :=
  ⟨ready_takes _ _, rfl, request_clean _⟩

theorem witness_ReloadBootBeginsCheckPass :
    ready.takesRequest 9 (request []) ∧ grey.takesRequest 9 (request []) ∧ wholeRequest (request []) ∧
      cleanRequest (request []) [] ∧ (∀ n, (ready.lane n).state = .idle) ∧ ∃ n, (grey.lane n).state ≠ .idle :=
  ⟨ready_takes _ _, ⟨⟨rfl, rfl, rfl⟩, rfl, by decide, fun h => absurd h.1 (by decide)⟩, rfl, request_clean _, by decide +kernel,
    0, by decide +kernel⟩

theorem witness_DstopPausesEmission :
    ready.dstop = false ∧ (ready.withDstop true).dstop = true ∧ (ready.withDstop true).etx.inFlight = false := by
  decide +kernel

/-- A part with no candidate at all. -/
theorem ready_offers (src : Source) (cls : Nat) : ¬ready.offers src cls := by
  rcases src with n | _ | _
  · rintro ⟨-, h⟩
    have empty : ∀ n, (ready.lane n).store = [] := by decide +kernel
    rw [empty n] at h
    cases h
  · exact fun h => h.2.1 rfl
  · exact id

/-- A reply; a class-0 segment on lane 0, pointer 3; nothing, on an empty stack and with lane 0's segment on it. -/
theorem witness_EmissionChoosesHighestClass :
    (let s : State := { ready with replies := [⟨.reply 9 6 .done 6, []⟩] }
     s.atBoundary ∧ s.nothingOwed ∧ s.transit.length < 3 ∧ s.offers .reply 2 ∧ s.floor ≤ 2) ∧
    (let s := withResult 0 0 ready
     s.atBoundary ∧ s.nothingOwed ∧ s.transit.length < 3 ∧ s.floor ≤ 0 ∧ s.pointer 0 + 1 + 0 = 0 ∧
       s.offers (.lane 0) 0 ∧ (s.lane 0).store.head? = some ⟨.result 0 0 1, List.replicate 43 0⟩ ∧
       (∀ src c, s.offers src c → c ≤ 0) ∧ ∀ i < (0 : Fin 4), ¬s.offers (.lane (s.pointer 0 + 1 + i)) 0) ∧
    (ready.atBoundary ∧ ready.nothingOwed ∧ ready.etx.stack = [] ∧ ∀ src c, ready.offers src c → c < ready.floor) ∧
    (let s := (withResult 0 0 ready).withEtx { ready.etx with stack := [⟨.lane 0, 0, .segClose, 43⟩] }
     s.atBoundary ∧ s.nothingOwed ∧ s.segmentOf (.lane 0) = some ⟨.result 0 0 1, List.replicate 43 0⟩ ∧
       ∀ src c, s.offers src c → c < s.floor) := by
  refine ⟨?_, ⟨?_, ?_, ?_, ?_, ?_, ?_, ?_, ?_, ?_⟩, ⟨?_, ?_, rfl, fun _ _ h => absurd h (ready_offers _ _)⟩, ⟨?_, ?_, ?_, ?_⟩⟩
  · unfold State.atBoundary State.nothingOwed State.offers
    refine ⟨by decide +kernel, ⟨rfl, fun _ => rfl, ?_⟩, by decide, by decide +kernel, by decide⟩
    exact fun _ h => absurd h (by rintro ⟨⟩)
  · unfold State.atBoundary; decide +kernel
  · refine ⟨rfl, fun _ => rfl, ?_⟩
    exact fun _ h => absurd h (by rintro ⟨⟩)
  · decide +kernel
  · decide +kernel
  · decide +kernel
  · unfold State.offers; decide +kernel
  · decide +kernel
  · rintro (n | _ | _) c h
    · have class0 :
          ∀ m, ((withResult 0 0 ready).lane m).store.head?.map (fun g => headerClass g.header) ∈ [none, some 0] := by
        decide +kernel
      have := class0 n
      rw [h.2] at this
      exact Nat.le_of_eq (by simpa using this)
    · exact absurd rfl h.2.1
    · exact h.elim
  · intro i hi; exact absurd hi (by omega)
  · unfold State.atBoundary; decide +kernel
  · refine ⟨rfl, fun _ => rfl, ?_⟩
    exact fun _ h => absurd h (by rintro ⟨⟩)
  · unfold State.atBoundary; decide +kernel
  · refine ⟨rfl, fun h => ?_, ?_⟩
    · simp [State.withEtx] at h
    · intro top h cause tag
      simp only [State.withEtx, List.head?_cons, Option.mem_def, Option.some.injEq] at h
      rw [← h]; rintro ⟨⟩
  · decide +kernel
  · rintro (n | _ | _) c h
    · have : ∀ m : Fin 4, m ≠ 0 → (((withResult 0 0 ready).withEtx
          { ready.etx with stack := [⟨.lane 0, 0, .segClose, 43⟩] }).lane m).store = [] := by decide +kernel
      by_cases hn : n = 0
      · subst hn
        exact absurd rfl (h.1 _ (List.mem_singleton.2 rfl))
      · have h2 := h.2
        rw [this n hn] at h2
        cases h2
    · exact absurd rfl h.2.1
    · exact h.elim

/-- A transit unit of no data symbols at the head of the FIFO, after an own unit and after a transit unit, without and with
a candidate. -/
def oneTransit : State :=
  ready.withTransit [⟨tagSymbol 1 9, false⟩, ⟨dataSymbol 0, false⟩, ⟨dataSymbol 0, false⟩]

theorem witness_TransitAndOwnUnitsAlternate :
    (oneTransit.atBoundary ∧ oneTransit.nothingOwed ∧ oneTransit.etx.alternation = .own) ∧
    (let s := oneTransit.withEtx { oneTransit.etx with alternation := .transit }
     s.atBoundary ∧ s.etx.alternation = .transit ∧ s.etx.stack = [] ∧ ∀ src c, ¬s.offers src c) ∧
    (let s := (withResult 2 1 oneTransit).withEtx { oneTransit.etx with alternation := .transit }
     s.atBoundary ∧ s.etx.alternation = .transit ∧ s.offers (.lane 2) 1) := by
  refine ⟨⟨?_, ⟨rfl, fun _ => rfl, ?_⟩, rfl⟩, ⟨?_, rfl, rfl, fun src c => ready_offers src c⟩, ?_⟩
  · unfold State.atBoundary; decide +kernel
  · exact fun _ h => absurd h (by rintro ⟨⟩)
  · unfold State.atBoundary; decide +kernel
  · unfold State.atBoundary State.offers; decide +kernel

/-- Section 8.12: closes owed; STARTED pending; STARTED open. -/
theorem witness_OwedUnitsGoFirst :
    (let s := ready.withEtx { ready.etx with stack := [⟨.lane 1, 0, .chunk 3, 768⟩], unwinding := true }
     s.atBoundary ∧ s.etx.unwinding = true) ∧
    (let s := ready.withEtx { ready.etx with started := some (.request, 9) }
     s.atBoundary ∧ s.etx.stack = [] ∧ s.etx.started = some (.request, 9)) ∧
    (let s := ready.withEtx { ready.etx with stack := [⟨.started .request 9, 2, .chunk 0, 0⟩] }
     s.atBoundary ∧ s.etx.unwinding = false) := by
  unfold State.atBoundary
  decide +kernel

/-- The units of a part that sends a result segment of lane 0, by hand. -/
def sending (what : Sending) (sent : Nat) (resume : Resume) : State :=
  (withResult 0 0 ready).withEtx { ready.etx with stack := [⟨.lane 0, 0, resume, 0⟩], current := some ⟨what, sent⟩ }

/-- A SEG OPEN at its first and at its last symbol, a CHUNK at its last, a SEG CLOSE at its last, of a lane's segment and of a
reply, without and with a request held. -/
theorem witness_OwnSymbolSent :
    (let open0 := unitSymbols kindSegOpen 6 (headerBytes (.result 0 0 1))
     let s := fun k => sending (.segOpen open0) k .segOpen
     (∀ k ∈ [0, 9], (s k).etx.current = some ⟨.segOpen open0, k⟩ ∧ (ownSymbols (.segOpen open0))[k]?.isSome = true ∧
       (s k).dstop = false ∧ (s k).segmentOf (.lane 0) = some ⟨.result 0 0 1, List.replicate 43 0⟩) ∧
     0 + 1 < open0.length ∧ 9 + 1 = open0.length) ∧
    (let chunk0 := unitSymbols kindChunk 6 (List.replicate 43 0)
     (ownSymbols (.chunk 0 chunk0))[45]?.isSome = true ∧ 45 + 1 = chunk0.length ∧ 3 ≤ 45 ∧
       (sending (.chunk 0 chunk0) 45 (.chunk 0)).dstop = false) ∧
    (let close0 := unitSymbols kindSegClose 6 [0, 43, 0]
     (ownSymbols (.segClose true close0))[5]?.isSome = true ∧ 5 + 1 = close0.length ∧
       (sending (.segClose true close0) 5 .segClose).dstop = false ∧ ¬ready.holdsRequest ∧
       (after (.readProfile (request [3])) eightReplies).holdsRequest) := by
  refine ⟨by decide +kernel, by decide +kernel, by decide +kernel, by decide +kernel, by decide +kernel, ?_, ?_⟩
  · rintro ⟨h, hh, -⟩; cases hh
  · have h : (after (.readProfile (request [3])) eightReplies).lrx.hold = some (eightReplies.heldRequest 2 (request [3])) := by
      decide +kernel
    exact ⟨_, h, by decide +kernel⟩

theorem witness_TransitSymbolSent :
    let s := oneTransit.withEtx { oneTransit.etx with current := some ⟨.transit 0, 0⟩ }
    s.etx.current = some ⟨.transit 0, 0⟩ ∧ s.dstop = false ∧ s.transit = s.transit.take 1 ++ s.transit.tail ∧
      (s.withTransit []).etx.current = some ⟨.transit 0, 0⟩ ∧ (s.withTransit []).transit = [] := by
  decide +kernel

/-- A boundary; an own unit, with and without DSTOP#, at its last symbol and before it; a transit unit whose last symbol has
not arrived, one whose last symbol has, and one cut by an end mark on its second. -/
theorem witness_UnitEndSendsTheRest :
    ready.etx.current = none ∧
    (let fill := [tagSymbol 7 6, dataSymbol 0, dataSymbol 0]
     let s := fun k => ready.withEtx { ready.etx with current := some ⟨.fill fill, k⟩, inFlight := true }
     (∀ k ∈ [1, 2], (s k).dstop = false ∧ (s k).etx.current = some ⟨.fill fill, k⟩ ∧
       ((s k).withDstop true).dstop = true ∧ ((s k).withDstop true).etx.inFlight = true) ∧
     1 + 1 < (ownSymbols (.fill fill)).length ∧ 2 + 1 = (ownSymbols (.fill fill)).length) ∧
    (let s := oneTransit.withEtx { oneTransit.etx with current := some ⟨.transit 0, 0⟩ }
     0 < 0 + 3 ∧ (∀ y ∈ s.transit, y.endMark = false) ∧ (s.withTransit s.transit.tail).transit.length < 0 + 3 - 0 ∧
       s.transit = s.transit.take 2 ++ ⟨dataSymbol 0, false⟩ :: [] ∧ 0 + (s.transit.take 2).length + 1 = 0 + 3) ∧
    (let cut := [(⟨dataSymbol 0, false⟩ : TransitSymbol)] ++ ⟨dataSymbol 0, true⟩ :: []
     (∀ y ∈ cut.take 1, y.endMark = false) ∧ 1 + (cut.take 1).length + 1 ≤ 4 + 3) := by
  decide +kernel

/-- A cycle with no prescale code, one within the interval, one that fills it. Code 0; the pulse before the last of a divisor
of 2; the last. -/
theorem witness_ClockCyclesAndPulsesMakeTicks :
    (State.reset.pending = [] ∧ State.reset.tables.prescale = 0 ∧ ticking.pending = [] ∧ ticking.tables.prescale ≠ 0 ∧
      pulseInterval 1 false ≤ ticking.time.cycles + 1 ∧ ticking.time.cycles + 1 < pulseInterval 2 false) ∧
    ready.tables.prescale = 0 ∧
    (let s := fun k => (ready.withTables { ready.tables with prescale := 2, divisor := 2 }).withTime { pulses := k }
     (s 0).tables.prescale ≠ 0 ∧ (s 0).time.pulses + 1 < (s 0).tables.divisor ∧
       (s 1).time.pulses + 1 = (s 1).tables.divisor) := by
  decide +kernel

/-- USTOP# asserted; lane 0's timer two ticks and one tick from its limit of 20, lane 1's running in DISCARD. -/
theorem witness_TickReachesStallTimers :
    (holding.withTables ticking.tables).tables.prescale ≠ 0 ∧ (holding.withTables ticking.tables).ustop = true ∧
    (let s := fun k => (ticking.setLane 0 { greyLane with stallTimer := k }).setLane 1 { state := .discard, stallTimer := 9 }
     ∀ k ∈ [18, 19], (s k).tables.prescale ≠ 0 ∧ (s k).ustop = false ∧
       (stallLimitOf ((s k).lane 0) ≤ ((s k).lane 0).stallTimer + 1 ↔ k = 19) ∧ timerRuns ((s k).lane 0) = true ∧
       timerRuns ((s k).lane 1) = true ∧ ((s k).lane 1).stallTimer + 1 < stallLimitOf ((s k).lane 1)) := by
  decide +kernel

/-- No boot load; start-up; RELOAD BOOT with nothing held and with an ITEM OPEN held. -/
theorem witness_SilentBootMemoryEndsLoad :
    ready.boot.phase = .idle ∧ State.reset.boot.phase ≠ .idle ∧ State.reset.boot.position = 0 ∧
      State.reset.boot.purpose = some .startUp ∧
    ∀ s ∈ [reloading, after (.itemOpen item16) reloading], s.boot.phase ≠ .idle ∧ s.boot.position = 0 ∧
      s.boot.purpose = some .reload ∧ s.req.bootRunning = some 9 ∧ (s.lrx.hold = none ↔ s.lrx.fifo = []) := by
  decide +kernel

/-- Each failing test at a boundary value, in a pass of an image with one profile entry and one tone entry, at start-up and in
a RELOAD BOOT, with nothing held and with an ITEM OPEN held. -/
theorem witness_BadImageByteEndsLoad :
    (∀ s ∈ [reloading, after (.itemOpen item16) reloading], s.boot.phase ≠ .idle ∧ s.boot.purpose = some .reload ∧
      s.req.bootRunning = some 9) ∧ State.reset.boot.phase ≠ .idle ∧ State.reset.boot.purpose = some .startUp ∧
    (let b := fun (p : Nat) (w : List Byte) =>
      ({ checkPass .reload with position := p, profileCount := 1, toneCount := 1, window := w } : BootLoader)
     (∀ x ∈ [(b 0 [], (66 : Byte)), (b 1 [], 83), (b 2 [], 17), (b 3 [], 5), (b 4 [], 32), (b 6 [0], 0), (b 7 [], 16),
         (b 44 [], 4), (b 302 [1], 0)], imageByteFails x.1 x.2) ∧
     (∀ x ∈ [(0, (2 : Byte)), (1, 0), (1, 16), (2, 64), (3, 15), (4, 4), (5, 2), (10, 2), (11, 2), (12, 16), (13, 64),
         (14, 15), (15, 5), (16, 4)],
       imageByteFails (b (8 + x.1) (3 :: recordList.take x.1)) x.2) ∧
     imageByteFails (b 30 (3 :: (recordList.take 21 ++ [3]))) 233 ∧
     imageByteFails (b 32 (3 :: (recordList.take 23 ++ [3]))) 233 ∧
     imageByteFails (b 43 (3 :: (recordList.take 35).set 6 40)) 20) := by
  have ex : ∀ (b : BootLoader) (v index : Byte) (before : List Byte), 7 ≤ b.position → b.position < 7 + 37 * b.profileCount →
      b.window = index :: before → recordByteFails before v → imageByteFails b v := fun b v i l h1 h2 h3 h4 =>
    .inr (.inr (.inr (.inr (.inr (.inr (.inr (.inl ⟨h1, h2, i, l, h3, h4⟩)))))))
  refine ⟨by decide +kernel, by decide, by decide, ?_, ?_, ?_, ?_, ?_⟩
  · intro x hx
    simp only [List.mem_cons, List.not_mem_nil, or_false] at hx
    rcases hx with rfl | rfl | rfl | rfl | rfl | rfl | rfl | rfl | rfl <;>
      simp [imageByteFails, checkPass]
  · intro x hx
    refine ex _ _ 3 (recordList.take x.1) ?_ ?_ rfl ?_
    · show 7 ≤ 8 + x.1; omega
    · have : ∀ x ∈ [(0, (2 : Byte)), (1, 0), (1, 16), (2, 64), (3, 15), (4, 4), (5, 2), (10, 2), (11, 2), (12, 16),
          (13, 64), (14, 15), (15, 5), (16, 4)], 8 + x.1 < 7 + 37 * 1 := by decide
      exact this x hx
    · revert x; unfold recordByteFails; decide +kernel
  · refine ex _ _ 3 _ (by decide) (by decide) rfl ?_; unfold recordByteFails; decide +kernel
  · refine ex _ _ 3 _ (by decide) (by decide) rfl ?_; unfold recordByteFails; decide +kernel
  · refine ex _ _ 3 _ (by decide) (by decide) rfl ?_; unfold recordByteFails; decide +kernel

/-- A good image; the check pass at its first byte; the second byte of the only tone entry. -/
theorem witness_GoodBootImageApplied :
    let b : BootLoader := { phase := .check, purpose := some .reload, position := 8, toneCount := 1, window := [0] }
    reloading.boot.phase ≠ .idle ∧ reloading.boot.position = 0 ∧ b.phase ≠ .idle ∧ 7 + 37 * b.profileCount ≤ b.position ∧
      b.position < 7 + 37 * b.profileCount + 257 * b.toneCount ∧ 1 ≤ b.window.length ∧ b.window.length ≤ 255 ∧
    BootImage.good ⟨31, 65535, [(3, record), (3, greyRecord)], [(0, identity)]⟩ ∧ reloading.boot = checkPass .reload ∧
      reloading.req.bootRunning = some 9 ∧ State.reset.boot = checkPass .startUp := by
  unfold BootImage.good acceptable
  decide +kernel

/-! States that are neither a reset state nor idle and that meet what every step keeps, with a command that waits. -/

/-- Lane 0 in OPEN, and a tick to come. -/
def inUse : State := ticking.withPending [.tick]

theorem witness_StepKeepsResourcesBalanced : ResourcesBalanced inUse ∧ step inUse = .next (after .tick ticking) := by
  refine ⟨⟨by decide +kernel, by decide +kernel, by decide +kernel, ?_⟩, rfl⟩
  intro n syms h
  have : ∀ n, (inUse.lane n).taking = .none := by decide +kernel
  rw [this n] at h
  cases h

theorem witness_StepKeepsBounds : WithinBounds inUse ∧ step inUse = .next (after .tick ticking) := by
  have link : LinkBounded inUse :=
    ⟨by decide +kernel, by decide +kernel, fun u _ h => Parse.noConfusion (show Parse.watch = .body u from h),
      by decide +kernel, by decide +kernel⟩
  have lanes : ∀ n, LaneBounded (inUse.lane n) := fun n => by
    constructor <;> revert n <;> decide +kernel
  exact ⟨⟨link, lanes, by decide +kernel, by decide +kernel, by decide +kernel, by decide +kernel, by decide +kernel,
    by decide +kernel⟩, rfl⟩

/-- A result segment being sent. -/
theorem witness_StepKeepsStackNested :
    let s := (sending (.fill []) 1 .segOpen).withPending [.symbolSent]
    StackNested s ∧ ∃ t, step s = .next t := by
  refine ⟨⟨?_, ?_, ?_, ?_, ?_⟩, _, rfl⟩ <;> decide +kernel

theorem witness_StepKeepsTablesLegal : TablesLegal inUse ∧ step inUse = .next (after .tick ticking) := by
  have none_staged : StagingPassed inUse.boot :=
    ⟨by decide +kernel, by intro e h; simp [inUse, ticking, grey, ready, State.withPending, State.withTables] at h,
      fun h => absurd h (by decide +kernel), fun h => absurd h (by decide +kernel)⟩
  refine ⟨⟨?_, by decide +kernel, ?_, ?_, none_staged⟩, rfl⟩
  · unfold acceptable; decide +kernel
  · unfold acceptable; decide +kernel
  · decide +kernel

theorem witness_WidthRuleCoversLine :
    (1 ≤ 1 ∧ 0 ≤ 63 ∧ 1 ≤ 1) ∧ (1 ≤ 15 ∧ 63 ≤ 63 ∧ 1 ≤ 2048) := by
  decide

/-- The lines of section 3.8, V even and odd: S_G 5, W_in 16. -/
theorem witness_RowsOfItem :
    (1 ≤ 5 ∧ 0 ≤ 63 ∧ 1 ≤ 16 ∧ ∀ line ∈ [line0, line1, line2], line.length = 16) ∧ 2 % 2 = 0 ∧ 1 % 2 = 1 ∧
      rowsEmitted (channelFor 5 0 2 16) [line0, line1, line2] =
        [(0, [205, 125, 205, 101]), (1, [100, 100, 100, 100])] := by
  decide +kernel

/-- 32 × 1,133 granted whole; H 16 granted where 32 does not fit; nothing granted. -/
theorem witness_PoolGrantsFirstHeightThatFits :
    (let code : Fin 4 := 3
     32 ∈ [32, 16, 8, 4] ∧ 32 ≤ 4 * 2 ^ code.val ∧ 32 * 1133 ≤ 36256 ∧
       (∀ h' ∈ [32, 16, 8, 4], 32 < h' → h' ≤ 4 * 2 ^ code.val → 36256 < h' * 1133)) ∧
    (16 * 1133 ≤ 22304 ∧ ∀ h' ∈ [32, 16, 8, 4], 16 < h' → h' ≤ 4 * 2 ^ (3 : Fin 4).val → 22304 < h' * 1133) ∧
    4531 < 4 * 1133 := by
  decide

theorem witness_SeekFindsLargestBin :
    22 ≤ 63 ∧ (bandHistogram.toList.take 22).sum ≤ 2 := by
  decide +kernel

/-- Both clauses, at the first and the last bit of a row. -/
theorem witness_DespeckleIsNeighbourMajority :
    ({ despeckle := 0 } : Record).despeckle = 0 ∧ bandRecord.despeckle = 1 ∧ 0 < row0.length ∧
      row0.length - 1 < row0.length := by
  decide

theorem witness_BandRowsReadBack :
    1 ≤ 2 ∧ 2 ≤ 2048 ∧ (∀ row ∈ [[true, false], [false, false]], row.length = 2) ∧
      [[true, false], [false, false]][1]? = some [false, false] := by
  decide

/-- A closed group context; an open one with no row and with three. -/
theorem witness_GreyRowsPackedIntoGroups :
    ({} : Lane).coder.groupOpen = false ∧ greyLane.coder.groupOpen = true ∧ greyLane.coder.group.length ≠ 3 ∧
      (let l := { greyLane with coder := { greyLane.coder with group := [[5, 1], [6], [6]] } }
       l.coder.groupOpen = true ∧ l.coder.group.length = 3 ∧ l.coder.group ≠ []) := by
  decide

/-- A band of two rows of width 10, as in section 5.10, in both modes; column 9. An inactive store; an active one with seven
rows of eight and with six. -/
theorem witness_BandTakesRowsAndCloses :
    let l : Lane := { snap := { record := some bandRecord, wOutB := 10, h := 8 }, band := { rows := [row0, row1], tPrev := 128 } }
    let active := fun k : Nat => ({ l with band := { active := true, rows := List.replicate k row0 } } : Lane)
    l.band.active = false ∧ (active 7).band.active = true ∧ (active 7).band.rows.length + 1 = (active 7).snap.h ∧
      (active 6).band.rows.length + 1 ≠ (active 6).snap.h ∧
    (∀ row ∈ l.band.rows.map (finishedRow (snapRecord l.snap) 108), 9 < row.length) ∧ (snapRecord l.snap).mode = 1 ∧
      ({ bandRecord with mode := 0 } : Record).mode = 0 := by
  decide +kernel

theorem witness_DispositionFollowsFlags :
    (Reason.badHeader ≠ .none) ∧ ({ bDropped := true } : ProcFlags).bDropped = true ∧
      (let f : ProcFlags := { bandReduced := true }
       ¬(f.superseded ∨ f.stalled ∨ f.aborted ∨ f.countMismatch ∨ f.lineCap ∨ f.outputLost ∨ f.bDropped)) ∧
      ({ streak := true } : QualityFlags).streak = true ∧
      (let q : QualityFlags := {}
       ¬(q.short ∨ q.long ∨ q.light ∨ q.dark ∨ q.small ∨ q.large ∨ q.streak)) := by
  decide

theorem witness_RecordBytesRoundTrip : recordList.length = 36 := by decide

end Sys2Proof.Tests
end

section
/-! SUPPORT. Section 3.2, R41 and R42: the spans of a row, laid end to end from input pixel 0. -/

namespace Sys2Proof.Machine

theorem positionOf_of_lt {x : Nat} (h : x < 64) : positionOf x = x + 1 := by
  simp [positionOf, Nat.mod_eq_of_lt h]

@[simp] theorem positionOf_period_add (x : Nat) : positionOf (64 + x) = positionOf x := by
  simp [positionOf]

/-- R41: the last position of a period is never stretched. -/
@[simp] theorem spanOf_last_position (s e : Nat) : spanOf s e 64 = s := by
  simp [spanOf, stretched]

@[simp] theorem spanStart_zero (s e : Nat) : spanStart s e 0 = 0 := rfl

theorem spanStart_succ (s e x : Nat) :
    spanStart s e (x + 1) = spanStart s e x + spanOf s e (positionOf x) := by
  simp [spanStart, List.range_succ]

/-- Every span is at least one pixel wide, so output pixel `x` starts no earlier than input pixel `x`. -/
theorem le_spanStart {s : Nat} (e : Nat) (hs : 1 ≤ s) (x : Nat) : x ≤ spanStart s e x := by
  induction x with
  | zero => simp
  | succ x ih =>
    have one_le_span : 1 ≤ spanOf s e (positionOf x) := Nat.le_add_right_of_le hs
    rw [spanStart_succ]
    omega

theorem spanStart_eq_mul_add (s e x : Nat) :
    spanStart s e x = x * s + ((List.range x).map fun y => (stretched e (positionOf y)).toNat).sum := by
  simp [spanStart, spanOf, List.sum_map_add]

/-- R41: bit `k` of the stretch `e` stretches `2 ^ k` of the 64 positions, so a period is stretched by `e` in all. -/
theorem sum_stretched_period :
    ∀ e < 64, ((List.range 64).map fun y => (stretched e (positionOf y)).toNat).sum = e := by
  decide +kernel

theorem spanStart_period {s e : Nat} (he : e ≤ 63) : spanStart s e 64 = 64 * s + e := by
  rw [spanStart_eq_mul_add, sum_stretched_period e (by omega)]

/-- The spans after a period's 64 are those of the row's beginning. -/
theorem spanStart_period_add {s e : Nat} (he : e ≤ 63) (x : Nat) :
    spanStart s e (64 + x) = 64 * s + e + spanStart s e x := by
  induction x with
  | zero => simp [spanStart_period he]
  | succ x ih => rw [← Nat.add_assoc, spanStart_succ, spanStart_succ, ih, positionOf_period_add, Nat.add_assoc]

theorem spanStart_periods_add {s e : Nat} (he : e ≤ 63) (q x : Nat) :
    spanStart s e (64 * q + x) = (64 * s + e) * q + spanStart s e x := by
  induction q with
  | zero => simp
  | succ q ih =>
    calc spanStart s e (64 * (q + 1) + x)
        = spanStart s e (64 + (64 * q + x)) := by congr 1; omega
      _ = 64 * s + e + ((64 * s + e) * q + spanStart s e x) := by rw [spanStart_period_add he, ih]
      _ = (64 * s + e) * (q + 1) + spanStart s e x := by rw [Nat.mul_succ]; omega

end Sys2Proof.Machine
end

section
/-! SUPPORT. R42, R43: the width rule finds the span that covers the last pixel of the line. -/

namespace Sys2Proof.Machine

/-- R43 step 3: begun at `m` positions, the search stops at the first `n` whose spans reach the remainder `r`, and
a period holds enough of them. -/
theorem fillRemainder_eq_first {s e r : Nat} (hr : r ≤ spanStart s e 64) (fuel : Nat) :
    ∀ m, m + fuel = 64 → ∃ n, fillRemainder s e r fuel m (spanStart s e m) = (n, spanStart s e n) ∧
      n ≤ 64 ∧ r ≤ spanStart s e n ∧ ∀ k, m ≤ k → k < n → spanStart s e k < r := by
  induction fuel with
  | zero =>
    intro m hm
    obtain rfl : m = 64 := hm
    exact ⟨64, rfl, le_rfl, hr, fun k hmk hkm => by omega⟩
  | succ fuel ih =>
    intro m hm
    by_cases reached : r ≤ spanStart s e m
    · exact ⟨m, by simp [fillRemainder, reached], by omega, reached, fun k hmk hkm => by omega⟩
    · obtain ⟨n, hfill, hn, hrn, hbefore⟩ := ih (m + 1) (by omega)
      rw [spanStart_succ, positionOf_of_lt (by omega)] at hfill
      refine ⟨n, by simpa [fillRemainder, reached] using hfill, hn, hrn, fun k hmk hkn => ?_⟩
      rcases hmk.eq_or_lt with rfl | hlt
      · omega
      · exact hbefore k hlt hkn

/-- R43 step 3 for a positive remainder: the last span needed, at index `k` of the period, begins before `r` and reaches
it. -/
theorem fillRemainder_of_pos {s e r : Nat} (hpos : 0 < r) (hr : r ≤ spanStart s e 64) :
    ∃ k < 64, fillRemainder s e r 64 0 0 = (k + 1, spanStart s e (k + 1)) ∧
      spanStart s e k < r ∧ r ≤ spanStart s e (k + 1) := by
  obtain ⟨n, hfill, hn, hrn, hbefore⟩ := fillRemainder_eq_first hr 64 0 rfl
  cases n with
  | zero => rw [spanStart_zero] at hrn; omega
  | succ k => exact ⟨k, hn, hfill, hbefore k k.zero_le k.lt_succ_self, hrn⟩

/-- R43 step 2: a line of whole periods ends with the last span of a period, which is whole. -/
theorem widthRule_of_mod_eq_zero {wIn s e : Nat} (h : wIn % (64 * s + e) = 0) :
    widthRule wIn s e = (64 * (wIn / (64 * s + e)), s) := by
  have remainder : wIn - wIn / (64 * s + e) * (64 * s + e) = 0 := by
    rw [Nat.div_mul_cancel (Nat.dvd_of_mod_eq_zero h), Nat.sub_self]
  simp [widthRule, remainder]

theorem widthRule_of_fillRemainder {wIn s e m total : Nat} (h : wIn % (64 * s + e) ≠ 0)
    (hfill : fillRemainder s e (wIn % (64 * s + e)) 64 0 0 = (m, total)) :
    widthRule wIn s e =
      (64 * (wIn / (64 * s + e)) + m, spanOf s e m - (total - wIn % (64 * s + e))) := by
  have remainder : wIn - wIn / (64 * s + e) * (64 * s + e) = wIn % (64 * s + e) := by
    rw [Nat.mod_eq_sub_div_mul]
  simp [widthRule, remainder, h, hfill]

/-- R42: the width rule counts up to the output pixel `x` in whose span the line ends, and `c` is what the line has left
from that span's start. -/
theorem widthRule_ends_in_span {wIn s e : Nat} (hs : 1 ≤ s) (he : e ≤ 63) (hw : 1 ≤ wIn) :
    ∃ x, widthRule wIn s e = (x + 1, wIn - spanStart s e x) ∧
      spanStart s e x < wIn ∧ wIn ≤ spanStart s e (x + 1) := by
  have split_line := Nat.div_add_mod wIn (64 * s + e)
  by_cases whole : wIn % (64 * s + e) = 0
  case pos =>
    obtain ⟨q, hq⟩ : ∃ q, wIn / (64 * s + e) = q + 1 :=
      Nat.exists_eq_add_one_of_ne_zero fun h => by rw [h, whole] at split_line; omega
    have line_end : spanStart s e (64 * q + 63 + 1) = wIn := by
      rw [Nat.add_assoc, spanStart_periods_add he, spanStart_period he, ← split_line, hq, whole, Nat.mul_succ]
      rfl
    have last_span : spanStart s e (64 * q + 63 + 1) = spanStart s e (64 * q + 63) + s := by
      rw [spanStart_succ, positionOf, Nat.mul_add_mod, spanOf_last_position]
    refine ⟨64 * q + 63, ?_, by omega, line_end.ge⟩
    rw [widthRule_of_mod_eq_zero whole, hq]
    simp only [Prod.mk.injEq]
    omega
  case neg =>
    have within_period : wIn % (64 * s + e) ≤ spanStart s e 64 := by
      rw [spanStart_period he]
      exact (Nat.mod_lt _ (by omega)).le
    obtain ⟨k, hk, hfill, hbegin, hend⟩ := fillRemainder_of_pos (Nat.pos_of_ne_zero whole) within_period
    have last_span : spanStart s e (k + 1) = spanStart s e k + spanOf s e (k + 1) := by
      rw [spanStart_succ, positionOf_of_lt hk]
    have start := spanStart_periods_add (s := s) he (wIn / (64 * s + e)) k
    have next_start := spanStart_periods_add (s := s) he (wIn / (64 * s + e)) (k + 1)
    refine ⟨64 * (wIn / (64 * s + e)) + k, ?_, by omega, by rw [Nat.add_assoc]; omega⟩
    rw [widthRule_of_fillRemainder whole hfill]
    simp only [Prod.mk.injEq]
    omega

/-- Settles O50: the line ends in the span of the pixel the width rule counts last, and the spans before it lie end to
end. -/
theorem widthRuleCoversLine : Obligations.WidthRuleCoversLine := by
  intro wIn s e hs he hw
  obtain ⟨x, hrule, hbegin, hend⟩ := widthRule_ends_in_span hs he hw
  have index_le_start := le_spanStart e hs x
  rw [spanStart_succ] at hend
  simp only [hrule, Nat.add_sub_cancel]
  refine ⟨by omega, by omega, by omega, by omega, ?_⟩
  change spanStart s e x + (wIn - spanStart s e x) = wIn
  omega

end Sys2Proof.Machine
end

section
/-! SUPPORT. R69, R70: every trial of the seek halves the range in which the largest t with C(t) at most K lies. -/

namespace Sys2Proof.Machine

/-- R69: C(t) never falls as `t` rises. -/
theorem cumulative_mono (hist : Vector Nat 64) : Monotone (cumulative hist) := fun _ _ hle =>
  (List.take_sublist_take_left hle).sum_le_sum fun _ _ => Nat.zero_le _

/-- A seek at position `t` that still searches `w` bins: C(t) is at most K, and the largest such bin is one of the `w`
from `t` on. -/
structure SeekRange (hist : Vector Nat 64) (k t w : Nat) : Prop where
  within : t + w ≤ 64
  accepted : cumulative hist t ≤ k
  bound : ∀ u ≤ 63, cumulative hist u ≤ k → u < t + w

theorem seekRange_start (hist : Vector Nat 64) (k : Nat) : SeekRange hist k 0 64 where
  within := by omega
  accepted := k.zero_le
  bound u hu _ := by omega

/-- R70: the trial in the middle of the range keeps its upper half if it is accepted, and else, as C never falls, its
lower half. -/
theorem SeekRange.trial {hist : Vector Nat 64} {k t : Nat} (w : Nat) (range : SeekRange hist k t (2 * w)) :
    SeekRange hist k (seekTrial hist k t w) w := by
  obtain ⟨within, accepted, bound⟩ := range
  unfold seekTrial
  split
  case isTrue taken =>
    exact ⟨by omega, taken, fun u hu hc => by have := bound u hu hc; omega⟩
  case isFalse refused =>
    refine ⟨by omega, accepted, fun u _ hc => ?_⟩
    by_contra! beyond
    exact refused ((cumulative_mono hist beyond).trans hc)

theorem seekRange_seek (hist : Vector Nat 64) (k : Nat) : SeekRange hist k (seek hist k) 1 :=
  (seekRange_start hist k).trial 32 |>.trial 16 |>.trial 8 |>.trial 4 |>.trial 2 |>.trial 1

/-- Settles O53: after the six trials the range is the one bin found. -/
theorem seekFindsLargestBin : Obligations.SeekFindsLargestBin := by
  intro hist k
  obtain ⟨within, accepted, bound⟩ := seekRange_seek hist k
  exact ⟨rfl, by omega, accepted, fun t ht hc => Nat.le_of_lt_succ (bound t ht hc)⟩

end Sys2Proof.Machine
end

section
/-! SUPPORT. R76 to R78: the bits of a filtered row, and of a finished one. -/

namespace Sys2Proof.Machine

/-- R77: black if at least two of the three bits are black. -/
theorem majority_eq_decide (a b c : Bool) : majority a b c = decide (2 ≤ a.toNat + b.toNat + c.toNat) := by
  revert a b c
  decide

@[simp] theorem length_bitRow (tBand : Nat) (row : List Byte) : (bitRow tBand row).length = row.length := by
  simp [bitRow]

/-- R76: the black decision on the value at position `x` of a grey row. -/
def blackAt (tBand : Nat) (row : List Byte) (x : Nat) : Bool := decide ((row.getD x 0).toNat < tBand)

theorem getElem?_bitRow (tBand : Nat) {row : List Byte} {x : Nat} (hx : x < row.length) :
    (bitRow tBand row)[x]? = some (blackAt tBand row x) := by
  simp [bitRow, blackAt, hx]

theorem getElem_bitRow (tBand : Nat) {row : List Byte} {x : Nat} (hx : x < (bitRow tBand row).length) :
    (bitRow tBand row)[x] = blackAt tBand row x :=
  (List.getElem_eq_iff hx).mpr (getElem?_bitRow tBand (by simpa using hx))

/-- R78: after the last bit of a row the bit itself stands in for the one after it. -/
theorem bitRow_right_or_self (tBand : Nat) {row : List Byte} {x : Nat} (hx : x < (bitRow tBand row).length) :
    (bitRow tBand row)[x + 1]?.getD (bitRow tBand row)[x] =
      if x + 1 = row.length then blackAt tBand row x else blackAt tBand row (x + 1) := by
  rw [length_bitRow] at hx
  split
  case isTrue last => simp [getElem_bitRow, last]
  case isFalse inner => rw [getElem?_bitRow tBand (by omega), Option.getD_some]

@[simp] theorem length_despeckleFrom (left : Bool) (bits : List Bool) :
    (despeckleFrom left bits).length = bits.length := by
  induction left, bits using despeckleFrom.induct with
  | case1 | case2 => rfl
  | case3 left b right rest ih => simp [despeckleFrom, ih]

@[simp] theorem length_despeckle (bits : List Bool) : (despeckle bits).length = bits.length := by
  cases bits with
  | nil => rfl
  | cons b rest => simp [despeckle]

/-- R77, R78: each bit of the filter is the majority of the bit before it, itself and the bit after it, the last bit
standing in for the one after it. -/
theorem getElem?_despeckleFrom (left : Bool) (bits : List Bool) :
    ∀ x (hx : x < bits.length), (despeckleFrom left bits)[x]? =
      some (majority ((left :: bits)[x]'(by simp; omega)) bits[x] (bits[x + 1]?.getD bits[x])) := by
  induction left, bits using despeckleFrom.induct with
  | case1 => simp
  | case2 left b =>
    intro x hx
    obtain rfl : x = 0 := by simpa using hx
    rfl
  | case3 left b right rest ih =>
    intro x hx
    cases x with
    | zero => simp [despeckleFrom]
    | succ x => simpa [despeckleFrom] using ih x (by simpa using hx)

/-- R77, R78: at the first bit `x - 1` is `x`, so that the bit itself stands in for the one before it. -/
theorem getElem?_despeckle {bits : List Bool} {x : Nat} (hx : x < bits.length) :
    (despeckle bits)[x]? = some (majority bits[x - 1] bits[x] (bits[x + 1]?.getD bits[x])) := by
  cases bits with
  | nil => simp at hx
  | cons b rest =>
    rw [despeckle, getElem?_despeckleFrom b _ x hx]
    cases x <;> rfl

theorem finishedRow_of_despeckle_eq_zero {r : Record} (h : r.despeckle = 0) (tBand : Nat) (row : List Byte) :
    finishedRow r tBand row = bitRow tBand row := by
  simp [finishedRow, h]

theorem finishedRow_of_despeckle_eq_one {r : Record} (h : r.despeckle = 1) (tBand : Nat) (row : List Byte) :
    finishedRow r tBand row = despeckle (bitRow tBand row) := by
  simp [finishedRow, h]

@[simp] theorem length_finishedRow (r : Record) (tBand : Nat) (row : List Byte) :
    (finishedRow r tBand row).length = row.length := by
  unfold finishedRow
  split <;> simp

/-- Settles O54: the neighbours of R77 and R78 are bits of the black decision's row. -/
theorem despeckleIsNeighbourMajority : Obligations.DespeckleIsNeighbourMajority := by
  intro r tBand grey x
  refine ⟨length_finishedRow r tBand grey, fun hx => ⟨fun off => ?_, fun on => ?_⟩⟩
  · rw [finishedRow_of_despeckle_eq_zero off]
    exact getElem?_bitRow tBand hx
  · have left : blackAt tBand grey (x - 1) = if x = 0 then blackAt tBand grey x else blackAt tBand grey (x - 1) := by
      cases x <;> rfl
    rw [finishedRow_of_despeckle_eq_one on, getElem?_despeckle (by simpa using hx), majority_eq_decide,
      bitRow_right_or_self, getElem_bitRow, getElem_bitRow, left]
    rfl

end Sys2Proof.Machine
end

section
/-! SUPPORT. R109: the flag sets that the disposition reads, and the disposition case by case. -/

namespace Sys2Proof.Machine

/-- R109, second line: the flags that make an item PARTIAL; BAND_REDUCED, SHORT_LINES, LONG_LINES and PIXEL_PARITY are
not among them. -/
theorem anyPartialFlag_iff (f : ProcFlags) :
    anyPartialFlag f ↔
      f.superseded ∨ f.stalled ∨ f.aborted ∨ f.countMismatch ∨ f.lineCap ∨ f.outputLost ∨ f.bDropped := by
  simp only [anyPartialFlag, Bool.or_eq_true, or_assoc]

theorem anyQualityFlag_iff (q : QualityFlags) :
    anyQualityFlag q ↔ q.short ∨ q.long ∨ q.light ∨ q.dark ∨ q.small ∨ q.large ∨ q.streak := by
  simp only [anyQualityFlag, Bool.or_eq_true, or_assoc]

theorem dispositionOf_of_reason_ne_none {reason : Reason} (refused : reason ≠ .none) (f : ProcFlags)
    (q : QualityFlags) : dispositionOf reason f q = .reject :=
  if_pos refused

/-- R109: without a reason, the processing flags come before the quality flags. -/
theorem dispositionOf_none (f : ProcFlags) (q : QualityFlags) :
    dispositionOf .none f q =
      if anyPartialFlag f then .partialItem else if anyQualityFlag q then .review else .accept :=
  if_neg (not_not_intro rfl)

/-- Settles O58: one case for each line of R109. -/
theorem dispositionFollowsFlags : Obligations.DispositionFollowsFlags := by
  intro reason f q partialSet qualitySet
  have hpartial : anyPartialFlag f ↔ partialSet := anyPartialFlag_iff f
  have hquality : anyQualityFlag q ↔ qualitySet := anyQualityFlag_iff q
  refine ⟨fun refused => dispositionOf_of_reason_ne_none refused f q, ?_, ?_, ?_⟩
  · rintro rfl faulty
    rw [dispositionOf_none, if_pos (hpartial.mpr faulty)]
  · rintro rfl sound flagged
    rw [dispositionOf_none, if_neg (mt hpartial.mp sound), if_pos (hquality.mpr flagged)]
  · rintro rfl sound clean
    rw [dispositionOf_none, if_neg (mt hpartial.mp sound), if_neg (mt hquality.mp clean)]

end Sys2Proof.Machine
end

section
/-! SUPPORT. What the rows, the segments and the closing work of a lane leave of it, and the few changes that every
command of a lane is made of. -/

namespace Sys2Proof.Machine

/-! ## Rows taken and segments offered -/

/-- What taking rows, offering segments and finishing an item's output leave of a lane: its item and its counts. -/
structure ItemFrame (l l' : Lane) : Prop where
  state : l'.state = l.state
  snap : l'.snap = l.snap
  header : l'.header = l.header
  taking : l'.taking = l.taking
  lines : l'.lineCount = l.lineCount
  timer : l'.stallTimer = l.stallTimer

theorem ItemFrame.refl (l : Lane) : ItemFrame l l := ⟨rfl, rfl, rfl, rfl, rfl, rfl⟩

/-- A property of a lane that the rows it takes keep. -/
structure RowsKept (L : Lane → Prop) : Prop where
  channels : ∀ l b g, L l → L { l with b := b, g := g }
  takeB : ∀ n i row l, L l → L (takeBRow n i row l).1
  takeG : ∀ tone n i row l, L l → L (takeGRow tone n i row l).1

namespace RowsKept

variable {L : Lane → Prop} (K : RowsKept L) {l : Lane}
include K

theorem endLineB (n : Fin 4) (h : L l) : L (endLineB n l).1 := by
  unfold Machine.endLineB
  split
  · exact K.channels l _ l.g h
  · exact K.takeB _ _ _ _ (K.channels l _ l.g h)

theorem endLineG (tone : Vector Byte 256) (n : Fin 4) (h : L l) : L (endLineG tone n l).1 := by
  unfold Machine.endLineG
  split
  · exact K.channels l l.b _ h
  · exact K.takeG _ _ _ _ _ (K.channels l l.b _ h)

/-- The end of a line keeps it too, if the offers do. -/
theorem endLine (tone : Vector Byte 256) (gFirst : Bool) (n : Fin 4) (offers : ∀ g l, L l → L (offer g l)) (h : L l) :
    L (endLine tone gFirst n l) := by
  have offered : ∀ (g : Option Segment) (m : Lane), L m → L (offerOption g m) := by
    rintro (_ | g) m hm
    · exact hm
    · exact offers g m hm
  have rows := K.endLineG tone n (K.endLineB n h)
  unfold Machine.endLine
  dsimp only
  split
  · split <;> exact offers _ _ (offers _ _ rows)
  · exact offered _ _ (offered _ _ rows)

theorem finishB (n : Fin 4) (finals : ∀ l x y, L l → L { l with coder := { l.coder with finalB := x, finalG := y } })
    (h : L l) : L (finishB n l) := by
  unfold Machine.finishB
  split
  · exact K.channels l _ l.g h
  · rename_i ch i row _
    have taken := K.takeB n i row _ (K.channels l ch l.g h)
    split
    · rename_i l' e; rw [e] at taken; exact taken
    · rename_i l' seg e; rw [e] at taken; exact finals l' _ _ taken

theorem finishG (tone : Vector Byte 256) (n : Fin 4)
    (finals : ∀ l x y, L l → L { l with coder := { l.coder with finalB := x, finalG := y } }) (h : L l) :
    L (finishG tone n l) := by
  unfold Machine.finishG
  split
  · exact K.channels l l.b _ h
  · rename_i ch i row _
    have taken := K.takeG tone n i row _ (K.channels l l.b ch h)
    split
    · rename_i l' e; rw [e] at taken; exact taken
    · rename_i l' seg e; rw [e] at taken; exact finals l' _ _ taken

end RowsKept

theorem RowsKept.itemFrame (l : Lane) : RowsKept (ItemFrame l) where
  channels _ _ _ h := ⟨h.state, h.snap, h.header, h.taking, h.lines, h.timer⟩
  takeB n i row m h := by
    unfold takeBRow
    dsimp only
    split
    · split <;> exact ⟨h.state, h.snap, h.header, h.taking, h.lines, h.timer⟩
    · exact h
  takeG tone n i row m h := by
    unfold takeGRow
    dsimp only
    split
    · split <;> exact ⟨h.state, h.snap, h.header, h.taking, h.lines, h.timer⟩
    · exact h

/-- Rows are taken and output is finished without a change of the output store. -/
theorem RowsKept.store (segs : List Segment) : RowsKept fun l => l.store = segs where
  channels _ _ _ h := h
  takeB n i row m h := by
    unfold takeBRow
    dsimp only
    split
    · split <;> exact h
    · exact h
  takeG tone n i row m h := by
    unfold takeGRow
    dsimp only
    split
    · split <;> exact h
    · exact h

/-- R45: the end of a line leaves the lane's item and counts. -/
theorem ItemFrame.endLine (tone : Vector Byte 256) (gFirst : Bool) (n : Fin 4) (l : Lane) :
    ItemFrame l (endLine tone gFirst n l) := by
  refine (RowsKept.itemFrame l).endLine tone gFirst n (fun g m h => ?_) (.refl l)
  unfold offer
  split <;> exact ⟨h.state, h.snap, h.header, h.taking, h.lines, h.timer⟩

/-- Rows are taken and segments offered with what stood in the store still at its head. -/
theorem RowsKept.storeGrows (segs : List Segment) : RowsKept fun l => ∃ more, l.store = segs ++ more where
  channels _ _ _ h := h
  takeB n i row l h := by rwa [(RowsKept.store l.store).takeB n i row l rfl]
  takeG tone n i row l h := by rwa [(RowsKept.store l.store).takeG tone n i row l rfl]

/-- R94: offers only add to the tail of the store. -/
theorem endLine_store (tone : Vector Byte 256) (gFirst : Bool) (n : Fin 4) (l : Lane) :
    ∃ more, (endLine tone gFirst n l).store = l.store ++ more := by
  refine (RowsKept.storeGrows l.store).endLine tone gFirst n ?_ ⟨[], by simp⟩
  rintro g m ⟨more, hm⟩
  unfold offer
  split
  · exact ⟨more ++ [g], by simp [hm]⟩
  · exact ⟨more, hm⟩

/-! ## The closing work -/

/-- What every step of the closing work keeps of a lane, from its entry into CLOSING on. -/
theorem closingWork_kept {L : Lane → Prop} (K : RowsKept L)
    (finals : ∀ l x y, L l → L { l with coder := { l.coder with finalB := x, finalG := y } })
    (band : ∀ n l, L l → L (finishBand n l)) (group : ∀ n l, L l → L (finishGroup n l))
    (composed : ∀ l x, L l → L { l with quality := { l.quality with composed := x } })
    (tone : Vector Byte 256) (n : Fin 4) (l : Lane) (h : L { l with state := .closing }) : L (closingWork tone n l) :=
  composed _ _ (group _ _ (band _ _ (K.finishG tone n finals (K.finishB n finals h))))

theorem ItemFrame.closingWork (tone : Vector Byte 256) (n : Fin 4) (l : Lane) :
    ItemFrame { l with state := .closing } (closingWork tone n l) := by
  refine closingWork_kept (RowsKept.itemFrame _) (fun m _ _ h => ?_) (fun n m h => ?_) (fun n m h => ?_)
    (fun m _ h => ?_) tone n l (.refl _)
  · exact ⟨h.state, h.snap, h.header, h.taking, h.lines, h.timer⟩
  · unfold finishBand
    split <;> exact ⟨h.state, h.snap, h.header, h.taking, h.lines, h.timer⟩
  · unfold finishGroup
    split <;> exact ⟨h.state, h.snap, h.header, h.taking, h.lines, h.timer⟩
  · exact ⟨h.state, h.snap, h.header, h.taking, h.lines, h.timer⟩

theorem closingWork_store (tone : Vector Byte 256) (n : Fin 4) (l : Lane) : (closingWork tone n l).store = l.store := by
  refine closingWork_kept (RowsKept.store l.store) (fun _ _ _ h => h) (fun n m h => ?_) (fun n m h => ?_)
    (fun _ _ h => h) tone n l rfl
  · unfold finishBand
    split <;> exact h
  · unfold finishGroup
    split <;> exact h

/-! ## The changes that a lane's commands are made of -/

/-- A change of a lane that neither opens nor ends its item, takes no row and leaves its store: of its flags and counts, of
its channels, of what it is taking. -/
structure QuietChange (l l' : Lane) : Prop where
  state : l'.state = l.state
  snap : l'.snap = l.snap
  band : l'.band = l.band
  coder : l'.coder = l.coder
  quality : l'.quality = l.quality
  store : l'.store = l.store
  lines : l.lineCount ≤ 4096 → l'.lineCount ≤ 4096
  timer : l.stallTimer ≤ 255 → l'.stallTimer ≤ 255
  taking : ∀ syms, l'.taking = .header syms → l.state = .idle ∨ ∃ earlier, l.taking = .header earlier

theorem QuietChange.trans {l m k : Lane} (h : QuietChange l m) (h' : QuietChange m k) : QuietChange l k where
  state := h'.state.trans h.state
  snap := h'.snap.trans h.snap
  band := h'.band.trans h.band
  coder := h'.coder.trans h.coder
  quality := h'.quality.trans h.quality
  store := h'.store.trans h.store
  lines b := h'.lines (h.lines b)
  timer b := h'.timer (h.timer b)
  taking syms e := by
    rcases h'.taking syms e with idle | ⟨earlier, e'⟩
    · exact .inl (h.state ▸ idle)
    · exact h.taking earlier e'

/-- A change of the channels, the flags and the counts of short, long and damaged lines. -/
theorem QuietChange.counts (l : Lane) (b g : Channel) (flags : ProcFlags) (short long parity : Nat) :
    QuietChange l
      { l with b := b, g := g, flags := flags, shortLines := short, longLines := long, parityPixels := parity } :=
  ⟨rfl, rfl, rfl, rfl, rfl, rfl, id, id, fun syms e => .inr ⟨syms, e⟩⟩

theorem QuietChange.flags (l : Lane) (flags : ProcFlags) : QuietChange l { l with flags := flags } :=
  .counts l l.b l.g flags l.shortLines l.longLines l.parityPixels

/-- What a lane is taking may change to anything but an ITEM OPEN's header, unless it is IDLE or takes one already. -/
theorem QuietChange.taking_of (l : Lane) (x : Taking)
    (h : ∀ syms, x = .header syms → l.state = .idle ∨ ∃ earlier, l.taking = .header earlier) :
    QuietChange l { l with taking := x } :=
  ⟨rfl, rfl, rfl, rfl, rfl, rfl, id, id, h⟩

theorem QuietChange.dropping (l : Lane) : QuietChange l { l with taking := .dropping } := .taking_of l _ (by simp)

theorem QuietChange.stallTimer (l : Lane) {v : Nat} (h : v ≤ 255) : QuietChange l { l with stallTimer := v } :=
  ⟨rfl, rfl, rfl, rfl, rfl, rfl, id, fun _ => h, fun syms e => .inr ⟨syms, e⟩⟩

theorem QuietChange.beginLine (l : Lane) : QuietChange l (beginLine l) := by
  unfold Machine.beginLine
  split
  case isTrue below =>
    exact ⟨rfl, rfl, rfl, rfl, rfl, rfl, fun _ => below, fun _ => by simp, by simp⟩
  case isFalse =>
    exact ⟨rfl, rfl, rfl, rfl, rfl, rfl, id, fun _ => by simp, by simp⟩

theorem QuietChange.discardLine (l : Lane) : QuietChange l (discardLine l) := by
  unfold Machine.discardLine
  split
  case isTrue below =>
    exact ⟨rfl, rfl, rfl, rfl, rfl, rfl, fun _ => below, fun _ => by simp, by simp⟩
  case isFalse =>
    exact ⟨rfl, rfl, rfl, rfl, rfl, rfl, id, fun _ => by simp, by simp⟩

/-- R2: a unit that its lane does not refuse; an ITEM OPEN is taken by an IDLE lane. -/
theorem QuietChange.takeImage {kind : BitVec 3} (sym : Symbol) {l : Lane} (taken : laneRefuses kind l = false) :
    QuietChange l (takeImage kind sym l) := by
  unfold Machine.takeImage
  split
  case isTrue opens =>
    refine .taking_of l _ fun _ _ => .inl ?_
    simpa [laneRefuses, opens] using And.right (Bool.or_eq_false_iff.1 taken)
  case isFalse =>
    split
    · split
      · exact .discardLine l
      · exact .beginLine l
    · exact .taking_of l _ (by simp)

theorem QuietChange.takePixel (arrived : Nat) (prev : Byte) (sym : Symbol) (l : Lane) :
    QuietChange l (takePixel arrived prev sym l) := by
  unfold Machine.takePixel countParity
  dsimp only
  split <;>
    exact (QuietChange.counts l _ _ _ l.shortLines l.longLines _).trans (.taking_of _ _ (by simp))

theorem QuietChange.surplusPixel (arrived : Nat) (prev : Byte) (l : Lane) :
    QuietChange l (surplusPixel arrived prev l) := by
  unfold Machine.surplusPixel
  split
  · exact ⟨rfl, rfl, rfl, rfl, rfl, rfl, id, id, by simp⟩
  · exact .taking_of l _ (by simp)

theorem QuietChange.supplyPixels (k : Nat) (l : Lane) : QuietChange l (supplyPixels k l) := by
  induction k generalizing l with
  | zero => exact .flags l l.flags
  | succ k ih =>
    exact (QuietChange.counts l _ _ l.flags l.shortLines l.longLines l.parityPixels).trans (ih _)

theorem QuietChange.countShort (l : Lane) : QuietChange l (countShort l) :=
  .counts l l.b l.g _ _ l.longLines l.parityPixels

theorem QuietChange.countCheck (syms : List Symbol) (l : Lane) : QuietChange l (countCheck syms l) := by
  unfold Machine.countCheck
  split
  · exact .flags l l.flags
  · exact .flags l _

/-- The changes that every command of a lane is made of keep `P`. -/
structure LaneKept (P : State → Prop) : Prop where
  quiet : ∀ n l s, QuietChange (s.lane n) l → P s → P (s.setLane n l)
  endLine : ∀ n s, P s → P (s.endLineOf n)
  closeOpened : ∀ n s, (s.lane n).state = .opened → P s →
    P (s.setLane n (closingWork (s.laneTone n) n (s.lane n)))
  closeDiscard : ∀ n s, (s.lane n).state = .discard → P s →
    P (s.setLane n (compose n { s.lane n with state := .closing }))
  abortItem : ∀ n s, (s.lane n).state ≠ .idle → P s → P (s.setLane n (abortItem n (s.lane n)))
  queueFinal : ∀ n s, canQueue (s.lane n) = true → P s → P (s.endClosing n)
  checkOpen : ∀ n syms s, (∃ earlier, (s.lane n).taking = .header earlier) → P s → P (s.checkOpen n syms)

namespace LaneKept

variable {P : State → Prop} {s : State} (K : LaneKept P) (n : Fin 4)
include K

theorem tryQueue (h : P s) : P (s.tryQueue n) := by
  unfold State.tryQueue
  split
  case isTrue room => exact K.queueFinal n s room h
  case isFalse => exact h

theorem closeLane (h : P s) : P (s.closeLane n) := by
  refine K.tryQueue n ?_
  cases hs : (s.lane n).state with
  | idle | closing =>
    rw [show enterClosing (s.laneTone n) n (s.lane n) = s.lane n by simp [enterClosing, hs], State.setLane_self]
    exact h
  | opened => simpa only [enterClosing, hs] using K.closeOpened n s hs h
  | discard => simpa only [enterClosing, hs] using K.closeDiscard n s hs h

theorem checkClose (syms : List Symbol) (h : P s) : P (s.checkClose n syms) :=
  K.closeLane n (K.quiet n _ s ((QuietChange.dropping _).trans (.countCheck _ _)) h)

theorem completeLine (arrived : Nat) (h : P s) : P (s.completeLine n arrived) := by
  unfold State.completeLine
  dsimp only
  split
  · exact K.endLine n _ (K.quiet n _ s ((QuietChange.countShort _).trans (.supplyPixels _ _)) h)
  · exact h

theorem pixel (arrived : Nat) (prev : Byte) (sym : Symbol) (h : P s) : P (s.pixel n arrived prev sym) := by
  unfold State.pixel
  dsimp only
  split
  · have taken := K.quiet n _ s (.takePixel arrived prev sym _) h
    split
    · exact K.endLine n _ taken
    · exact taken
  · exact K.quiet n _ s (.surplusPixel arrived prev _) h

theorem laneData (sym : Symbol) (h : P s) : P (s.laneData n sym) := by
  unfold State.laneData
  split
  · exact h
  · exact h
  · rename_i syms ht
    split
    · exact K.checkOpen n _ s ⟨syms, ht⟩ h
    · exact K.quiet n _ s (.taking_of _ _ fun _ _ => .inr ⟨syms, ht⟩) h
  · exact K.pixel n _ _ sym h
  · split
    · exact K.checkClose n _ h
    · exact K.quiet n _ s (.taking_of _ _ (by simp)) h

theorem laneUnitEnd (h : P s) : P (s.laneUnitEnd n) := by
  have rests : ∀ t : State, P t → P (t.setLane n { t.lane n with taking := .none }) :=
    fun t ht => K.quiet n _ t (.taking_of _ _ (by simp)) ht
  unfold State.laneUnitEnd
  dsimp only
  split
  · exact rests s h
  · exact rests s h
  · rename_i syms ht; exact rests _ (K.checkOpen n syms s ⟨syms, ht⟩ h)
  · exact rests _ (K.completeLine n _ h)
  · exact rests _ (K.checkClose n _ h)

theorem supersede (h : P s) : P (s.supersede n) := K.closeLane n (K.quiet n _ s (.flags _ _) h)

theorem beginImage {kind : BitVec 3} (sym : Symbol) (taken : laneRefuses kind (s.lane n) = false) (h : P s) :
    P (s.beginImage kind n sym) := by
  unfold State.beginImage
  split
  · exact K.closeLane n (K.quiet n _ s (.dropping _) h)
  · exact K.quiet n _ s (.takeImage sym taken) h

theorem abort (h : P s) : P (s.abort n) := by
  unfold State.abort
  split
  case isTrue acts =>
    refine K.tryQueue n (K.abortItem n s (fun idle => ?_) h)
    simp [abortActs, idle] at acts
  case isFalse => exact h

theorem expire (h : P s) : P (s.expire n) := by
  have drops : ∀ t : State, P t → P (t.setLane n { t.lane n with taking := .dropping }) :=
    fun t ht => K.quiet n _ t (.dropping _) ht
  have ends : ∀ t : State, P t →
      P ((t.setLane n { t.lane n with flags := { (t.lane n).flags with stalled := true } }).closeLane n) :=
    fun t ht => K.closeLane n (K.quiet n _ t (.flags _ _) ht)
  unfold State.expire
  dsimp only
  split
  · exact ends s h
  · exact ends _ (drops _ (K.completeLine n _ h))
  all_goals exact ends _ (drops s h)

end LaneKept

end Sys2Proof.Machine
end

section
/-! SUPPORT. The few operations that every command is made of, beside those of a lane: what they keep, every step keeps. -/

namespace Sys2Proof.Machine

/-! ## The Transit FIFO -/

/-- The changes that a write into the Transit FIFO is made of keep `P`. -/
structure TransitKept (P : State → Prop) : Prop where
  append : ∀ ts s, s.transit.length + ts.length ≤ 4096 → P s → P (s.withTransit (s.transit ++ ts))
  mark : ∀ s, P s → P (s.withTransit (markLast s.transit))
  overrun : ∀ k s, P s → P (s.countTransitOverrun k)
  cut : ∀ s, P s → P (s.withEtx { s.etx with current := none })

namespace TransitKept

variable {P : State → Prop} {s : State} (K : TransitKept P)
include K

theorem endTransit (h : P s) : P s.endTransit := by
  unfold State.endTransit
  split
  · split
    · exact K.cut s h
    · exact h
  · exact K.mark s h

theorem writeHeader (tag hi lo : Symbol) (h : P s) : P (s.writeHeader tag hi lo).1 := by
  unfold State.writeHeader
  split
  case isTrue room => exact K.append _ s room h
  case isFalse => exact K.overrun 3 s h

theorem writeData (sym : Symbol) (written : Bool) (h : P s) : P (s.writeData sym written).1 := by
  unfold State.writeData
  split
  · split
    case isTrue room => exact K.append _ s room h
    case isFalse => exact K.overrun 1 _ (K.endTransit h)
  · exact K.overrun 1 s h

theorem writeAll (syms : List Symbol) (written : Bool) (h : P s) : P (s.writeAll syms written).1 := by
  induction syms generalizing s written with
  | nil => exact h
  | cons sym rest ih => exact ih _ (K.writeData sym written h)

theorem writeCopySymbols (copy : List Symbol) (cut : Bool) (h : P s) : P (s.writeCopySymbols copy cut) := by
  unfold State.writeCopySymbols
  split
  · rename_i tag hi lo data
    have written := K.writeAll data (s.writeHeader tag hi lo).2 (K.writeHeader tag hi lo h)
    dsimp only
    split
    · exact K.endTransit written
    · exact written
  · exact h

end TransitKept

/-! ## Requests -/

/-- The changes that the execution of a request is made of: they keep `P`, with a reply more to come while `O` holds. -/
structure RequestKept (P O : State → Prop) : Prop where
  begins : ∀ q s, s.req.inProgress = some q → P s → O (s.withReq { s.req with inProgress := none })
  lrx : ∀ s v, O s → O (s.withLrx v)
  transit : TransitKept O
  lanes : LaneKept O
  events : ∀ s, O s → O (s.withReq { s.req with events := {} })
  profile : ∀ k r s, recordOk r = true → O s → O (s.withTables (setProfile s.tables k r))
  tone : ∀ k entries s, O s → O (s.withTables (setTone s.tables k entries))
  timebase : ∀ code divisor s, code ≤ 31 → divisor ≠ 0 → divisor ≤ 65535 → O s →
    O ((s.withTables (setTimebase s.tables code divisor)).withTime {})
  reload : ∀ tag s, O s →
    P (((s.withReq { s.req with bootRunning := some tag }).withBoot bootReload).putBus busAddressing)
  restart : ∀ tag s, O s → P (s.restart tag)
  answer : ∀ tag kind code body s, O s → P (s.answer tag kind code body)

/-- Two bytes spell a number of 16 bits. -/
theorem fieldAt_two_le (bytes : List Byte) (i : Nat) : fieldAt bytes i 2 ≤ 65535 := by
  unfold fieldAt
  match (bytes.drop i).take 2, List.length_take_le 2 (bytes.drop i) with
  | [], _ => decide
  | [a], _ => have := a.isLt; simp [beValue]; omega
  | [a, b], _ => have := a.isLt; have := b.isLt; simp [beValue]; omega
  | _ :: _ :: _ :: _, h => simp at h

namespace RequestKept

variable {P O : State → Prop} {s : State} (K : RequestKept P O)
include K

theorem writeCopy (h : O s) : O s.writeCopy := K.lrx _ _ (K.transit.writeCopySymbols _ _ h)

theorem doLoadProfile (q : RequestInProgress) (h : O s) : P (s.doLoadProfile q) := by
  unfold State.doLoadProfile tableLoadProfile
  dsimp only
  split
  · split
    case isTrue good => exact K.answer _ _ _ _ _ (K.profile _ _ s good h)
    case isFalse => exact K.answer _ _ _ _ _ h
  · exact K.answer _ _ _ _ _ h

theorem doLoadTone (q : RequestInProgress) (h : O s) : P (s.doLoadTone q) := by
  unfold State.doLoadTone tableLoadTone
  dsimp only
  split
  · split
    · exact K.answer _ _ _ _ _ h
    · exact K.answer _ _ _ _ _ (K.tone _ _ s h)
  · exact K.answer _ _ _ _ _ h

theorem doLoadTimebase (q : RequestInProgress) (h : O s) : P (s.doLoadTimebase q) := by
  unfold State.doLoadTimebase tableLoadTimebase
  dsimp only
  split
  case isTrue good =>
    exact K.answer _ _ _ _ _ (K.timebase _ _ s good.1 good.2 (fieldAt_two_le _ _) h)
  case isFalse => exact K.answer _ _ _ _ _ h

theorem doAbortLane (q : RequestInProgress) (h : O s) : P (s.doAbortLane q) := by
  unfold State.doAbortLane
  dsimp only
  split
  · exact K.answer _ _ _ _ _ (K.lanes.abort _ h)
  · exact K.answer _ _ _ _ _ h

theorem doReloadBoot (q : RequestInProgress) (h : O s) : P (s.doReloadBoot q) := by
  unfold State.doReloadBoot
  split
  · exact K.reload _ s h
  · exact K.answer _ _ _ _ _ h

/-- R149: the end of a request, executed or refused. -/
theorem requestEnd (copy : TransitKept P) (h : P s) : P s.requestEnd := by
  unfold State.requestEnd
  split
  · exact h
  · rename_i q hq
    have owing := K.begins q s hq h
    have copied := K.writeCopy owing
    unfold State.execute
    split
    · exact K.answer _ _ _ _ _ copied
    · exact K.doLoadProfile q copied
    · exact K.answer _ _ _ _ _ copied
    · exact K.doLoadTone q copied
    · exact K.answer _ _ _ _ _ copied
    · exact K.doLoadTimebase q copied
    · exact K.answer _ _ _ _ _ (K.events _ copied)
    · exact K.doAbortLane q copied
    · exact K.doReloadBoot q copied
    · exact copy.writeCopySymbols _ _ (K.restart _ _ owing)

end RequestKept

/-! ## All commands -/

/-- The changes that LRX makes and calls keep `P`; with a reply more to come, they keep `O`. -/
structure LinkKept (P O : State → Prop) : Prop where
  lanes : LaneKept P
  transit : TransitKept P
  requests : RequestKept P O
  lrx : ∀ s v, P s → P (s.withLrx v)
  stray : ∀ s, P s → P s.countStray
  tagParity : ∀ s, P s → P s.countTagParity
  extraData : ∀ s, P s → P s.countExtraData
  rxOverrun : ∀ s, P s → P s.countRxOverrun
  takeRequest : ∀ len data s, s.refusesRequest data = false → P s → P (s.takeRequest len data)
  requestData : ∀ sym s, P s → P (s.requestData sym)

theorem LinkKept.kept {P O : State → Prop} (K : LinkKept P O) : Kept P where
  lrx := K.lrx
  stray := K.stray
  tagParity := K.tagParity
  extraData := K.extraData
  rxOverrun := K.rxOverrun
  endTransit _ h := K.transit.endTransit h
  writeHeader _ _ _ _ h := K.transit.writeHeader _ _ _ h
  writeData _ _ _ h := K.transit.writeData _ _ h
  laneData _ _ _ h := K.lanes.laneData _ _ h
  laneUnitEnd _ _ h := K.lanes.laneUnitEnd _ h
  supersede _ _ _ h := K.lanes.supersede _ h
  beginImage _ _ _ _ taken h := K.lanes.beginImage _ _ taken h
  takeRequest := K.takeRequest
  requestData := K.requestData
  requestEnd _ h := K.requests.requestEnd K.transit h

/-- The changes that every command is made of keep `P`. -/
structure CommandKept (P O : State → Prop) : Prop extends LinkKept P O where
  pending : ∀ s v, P s → P (s.withPending v)
  blocksReset : ∀ cause s, P s → P (s.blocksReset cause)
  resetLine : ∀ v s, P s → P { s with resetLine := v }
  startUp : ∀ adr s, P s → P { s with resetLine := false, startUp := true, partAddress := adr, boot := BootLoader.startUp }
  time : ∀ s v, v.pulses < max 1 s.tables.divisor ∨ v.pulses = s.time.pulses → P s → P (s.withTime v)
  bus : ∀ s v, P s → P (s.withBus v)
  dstop : ∀ level flying s, P s → P ((s.withDstop level).withEtx { s.etx with inFlight := flying })
  emitUnitBegin : ∀ s, P s → P s.emitUnitBegin
  sendNext : ∀ s, P s → P s.sendNext
  bootIdle : ∀ s, P s → P (s.withBoot {})
  bootMore : ∀ v b s, s.boot.phase ≠ .idle → bootByte s.boot v = .more b → P s → P (s.withBoot (keepStaging s.boot b))
  bootApply : ∀ s, P s → P (s.withBoot (applyPass s.boot))
  image : ∀ v b s, s.boot.phase = .apply → bootByte s.boot v = .passed b → P s → P (s.applyImage b.staging)
  started : ∀ s, P s → P ((s.withStartUp false).withEtx { s.etx with started := some (s.req.lastReset, 0) })
  reloadEnds : ∀ tag s, s.req.bootRunning = some tag → P s → O (s.withReq { s.req with bootRunning := none })

namespace CommandKept

variable {P O : State → Prop} {s : State} (K : CommandKept P O)
include K

theorem putBus (events : List BusEvent) (h : P s) : P (s.putBus events) := K.bus _ _ h

theorem endBootLoad (code : ReplyCode) (h : P s) : P (s.endBootLoad code) := by
  have idle := K.bootIdle s h
  unfold State.endBootLoad
  dsimp only
  split
  · exact K.toLinkKept.kept.drain (K.started _ idle)
  · unfold State.endReload
    split
    · exact idle
    · rename_i tag running
      exact K.toLinkKept.kept.presentHeld (K.requests.answer _ _ _ _ _ (K.reloadEnds tag _ running idle))
  · exact idle

theorem bootByteRead (v : Byte) (h : P s) : P (s.bootByteRead v) := by
  unfold State.bootByteRead
  split
  · exact h
  · rename_i running
    have onBus := K.putBus (busAfterByte s.boot.phase (bootByte s.boot v)) h
    dsimp only
    split
    · exact K.endBootLoad _ onBus
    · rename_i b more
      exact K.bootMore v b _ running more onBus
    · rename_i b passed
      split
      · exact K.bootApply _ onBus
      · rename_i notCheck
        have applying : s.boot.phase = .apply := by
          cases hp : s.boot.phase with
          | idle => exact absurd hp running
          | check => exact absurd hp notCheck
          | apply => rfl
        exact K.endBootLoad _ (K.image v b _ applying passed onBus)

/-- What the changes keep, every step keeps. -/
theorem stepKept : StepKept P where
  toKept := K.toLinkKept.kept
  pending := K.pending
  powerOn adr s h := K.putBus _ (K.startUp adr _ (K.blocksReset _ s h))
  resetAssert s h := by
    have held := K.resetLine true _ (K.blocksReset .resetLine s h)
    unfold State.resetAssert
    dsimp only
    split
    · exact held
    · exact K.putBus _ held
  resetRelease adr s h := by
    unfold State.resetRelease
    split
    · exact K.putBus _ (K.startUp adr s h)
    · exact h
  time := K.time
  stallTimer n v s hv h := K.lanes.quiet n _ s (.stallTimer _ hv) h
  expire n s _ h := K.lanes.expire n h
  endClosing n s room h := K.lanes.queueFinal n s room h
  bus := K.bus
  dstopAssert s h := by
    unfold State.dstopAssert
    split
    · exact h
    · exact K.dstop true s.symbolAtHand s h
  dstopDeassert s h := K.dstop false false s h
  emitUnitBegin := K.emitUnitBegin
  symbolSent s h := by
    unfold State.symbolSent
    split
    · exact K.sendNext s h
    · exact h
  endBootLoad code s h := K.endBootLoad code h
  bootByteRead v s h := K.bootByteRead v h

end CommandKept

/-! ## Emission, for what does not speak of ETX -/

/-- The changes that ETX makes outside itself keep `P`, which does not speak of ETX. -/
structure EmissionKept (P : State → Prop) : Prop where
  laneAgain : ∀ n s, P s → P (s.presentLaneAgain n)
  requestAgain : ∀ s, P s → P s.presentRequestAgain
  etx : ∀ s v, P s → P (s.withEtx v)
  dtx : ∀ s v, P s → P (s.withDtx v)
  transitTail : ∀ t rest s, s.transit = t :: rest → P s → P (s.withTransit rest)
  storeTail : ∀ n s, P s → P (s.setLane n { s.lane n with store := (s.lane n).store.tail })
  repliesTail : ∀ s, P s → P (s.withReplies s.replies.tail)
  endClosing : ∀ n s, canQueue (s.lane n) = true → P s → P (s.endClosing n)

namespace EmissionKept

variable {P : State → Prop} {s : State} (K : EmissionKept P)
include K

theorem removeHead (src : Source) (h : P s) : P (s.removeHead src) := by
  cases src with
  | lane n =>
    have removed := K.storeTail n s h
    change P ((s.setLane n _).retestClosing n)
    unfold State.retestClosing
    split
    case isTrue room => exact K.laneAgain n _ (K.endClosing n _ room removed)
    case isFalse => exact removed
  | reply => exact K.requestAgain _ (K.repliesTail s h)
  | started cause tag => exact h

theorem popTop (release : Bool) (h : P s) : P (s.popTop release) := by
  unfold State.popTop
  split
  · exact h
  · dsimp only
    split
    · exact K.removeHead _ (K.etx _ _ h)
    · exact K.etx _ _ h

theorem endUnit (what : Sending) (h : P s) : P (s.endUnit what) := by
  have ended := K.etx s { s.etx with current := none, inFlight := false } h
  unfold State.endUnit
  dsimp only
  split
  · exact K.etx _ _ ended
  · exact K.etx _ _ ended
  · exact K.popTop _ ended
  · exact K.popTop _ ended
  · exact ended
  · exact ended

theorem countBody (what : Sending) (sent : Nat) (h : P s) : P (s.countBody what sent) := by
  unfold State.countBody
  split
  · split
    · exact K.etx _ _ h
    · exact h
  · exact h

theorem sendTransit (len sent : Nat) (h : P s) : P (s.sendTransit len sent) := by
  unfold State.sendTransit
  split
  · exact h
  · rename_i t rest head
    have left := K.etx _ { s.etx with current := some ⟨.transit len, sent + 1⟩, inFlight := false }
      (K.dtx _ (t.sym :: s.dtx) (K.transitTail t rest s head h))
    dsimp only
    split
    · exact K.endUnit _ left
    · exact left

theorem sendOwn (what : Sending) (sent : Nat) (h : P s) : P (s.sendOwn what sent) := by
  unfold State.sendOwn
  split
  · exact h
  · rename_i sym _
    have left := K.countBody what sent (K.etx _
      { s.etx with current := some ⟨what, sent + 1⟩, inFlight := false } (K.dtx s (sym :: s.dtx) h))
    dsimp only
    split
    · exact K.endUnit _ left
    · exact left

theorem sendNext (h : P s) : P s.sendNext := by
  unfold State.sendNext
  split
  · exact h
  · exact K.sendTransit _ _ h
  · exact K.sendOwn _ _ h

theorem ownUnit {own : State} (e : s.ownUnit = some own) (h : P s) : P own := by
  unfold State.ownUnit at e
  split at e
  · obtain ⟨c, _, rfl⟩ := Option.map_eq_some_iff.1 e
    exact K.etx _ _ (K.etx _ _ h)
  · split at e
    · cases e; exact K.etx _ _ (K.etx _ _ h)
    · cases e; exact K.etx _ _ h

theorem transitUnit {unit : State} (e : s.transitUnit = some unit) (h : P s) : P unit := by
  unfold State.transitUnit at e
  split at e
  · cases e; exact K.etx _ _ h
  · cases e

theorem alternate (h : P s) : P s.alternate := by
  unfold State.alternate
  split
  · rename_i own transit ho ht
    split
    · exact K.transitUnit ht h
    · exact K.ownUnit ho h
  · rename_i own ho _; exact K.ownUnit ho h
  · rename_i transit _ ht; exact K.transitUnit ht h
  · exact K.etx _ _ h

theorem emitUnitBegin (h : P s) : P s.emitUnitBegin := by
  unfold State.emitUnitBegin
  split
  · refine K.sendNext ?_
    unfold State.beginUnit
    split
    · exact K.etx _ _ h
    · exact K.etx _ _ (K.etx _ _ h)
    · split
      · exact K.etx _ _ h
      · exact K.alternate h
    · exact K.alternate h
  · exact h

end EmissionKept

end Sys2Proof.Machine
end

section
/-! SUPPORT. R31, R53: every step keeps the Band Pool and the in-use counts balanced. -/

namespace Sys2Proof.Machine

/-! ## Properties of the lanes, the Band Pool, the Table Store and the Boot Loader -/

/-- The changes of the lanes, the Band Pool, the Table Store and the Boot Loader keep `P`, which speaks of nothing else. -/
structure StoresKept (P : State → Prop) : Prop where
  same : ∀ {s t}, P s → t.lanes = s.lanes → t.pool = s.pool → t.tables = s.tables → t.boot = s.boot → P t
  lanes : LaneKept P
  storeTail : ∀ n s, P s → P (s.setLane n { s.lane n with store := (s.lane n).store.tail })
  profile : ∀ k r s, recordOk r = true → P s → P (s.withTables (setProfile s.tables k r))
  tone : ∀ k entries s, P s → P (s.withTables (setTone s.tables k entries))
  timebase : ∀ code divisor s, code ≤ 31 → divisor ≠ 0 → divisor ≤ 65535 → P s →
    P (s.withTables (setTimebase s.tables code divisor))
  restart : ∀ tag s, P s → P (s.restart tag)
  blocksReset : ∀ cause s, P s → P (s.blocksReset cause)
  bootStarts : ∀ purpose s, P s → P (s.withBoot { phase := .check, purpose := some purpose })
  bootIdle : ∀ s, P s → P (s.withBoot {})
  bootMore : ∀ v b s, s.boot.phase ≠ .idle → bootByte s.boot v = .more b → P s → P (s.withBoot (keepStaging s.boot b))
  bootApply : ∀ s, P s → P (s.withBoot (applyPass s.boot))
  image : ∀ v b s, s.boot.phase = .apply → bootByte s.boot v = .passed b → P s →
    P (s.withTables (applyStaging s.tables b.staging))

namespace StoresKept

variable {P : State → Prop} (K : StoresKept P)
include K

theorem transit : TransitKept P where
  append _ _ _ h := K.same h rfl rfl rfl rfl
  mark _ h := K.same h rfl rfl rfl rfl
  overrun _ _ h := K.same h rfl rfl rfl rfl
  cut _ h := K.same h rfl rfl rfl rfl

theorem requests : RequestKept P P where
  begins _ _ _ h := K.same h rfl rfl rfl rfl
  lrx _ _ h := K.same h rfl rfl rfl rfl
  transit := K.transit
  lanes := K.lanes
  events _ h := K.same h rfl rfl rfl rfl
  profile := K.profile
  tone := K.tone
  timebase code divisor s hc h0 h1 h := K.same (K.timebase code divisor s hc h0 h1 h) rfl rfl rfl rfl
  reload _ s h := K.same (K.bootStarts .reload s h) rfl rfl rfl rfl
  restart := K.restart
  answer _ _ _ _ _ h := K.same h rfl rfl rfl rfl

theorem link : LinkKept P P where
  lanes := K.lanes
  transit := K.transit
  requests := K.requests
  lrx _ _ h := K.same h rfl rfl rfl rfl
  stray _ h := K.same h rfl rfl rfl rfl
  tagParity _ h := K.same h rfl rfl rfl rfl
  extraData _ h := K.same h rfl rfl rfl rfl
  rxOverrun _ h := K.same h rfl rfl rfl rfl
  takeRequest _ _ _ _ h := K.same h rfl rfl rfl rfl
  requestData _ s h := by
    unfold State.requestData
    split
    · exact h
    · exact K.same h rfl rfl rfl rfl

theorem emission : EmissionKept P where
  laneAgain n _ h := K.link.kept.presentLaneAgain n h
  requestAgain _ h := K.link.kept.presentRequestAgain h
  etx _ _ h := K.same h rfl rfl rfl rfl
  dtx _ _ h := K.same h rfl rfl rfl rfl
  transitTail _ _ _ _ h := K.same h rfl rfl rfl rfl
  storeTail := K.storeTail
  repliesTail _ h := K.same h rfl rfl rfl rfl
  endClosing := K.lanes.queueFinal

theorem commands : CommandKept P P where
  toLinkKept := K.link
  pending _ _ h := K.same h rfl rfl rfl rfl
  blocksReset := K.blocksReset
  resetLine _ _ h := K.same h rfl rfl rfl rfl
  startUp _ s h := K.same (K.bootStarts .startUp s h) rfl rfl rfl rfl
  time _ _ _ h := K.same h rfl rfl rfl rfl
  bus _ _ h := K.same h rfl rfl rfl rfl
  dstop _ _ _ h := K.same h rfl rfl rfl rfl
  emitUnitBegin _ h := K.emission.emitUnitBegin h
  sendNext _ h := K.emission.sendNext h
  bootIdle := K.bootIdle
  bootMore := K.bootMore
  bootApply := K.bootApply
  image v b s hp hb h := K.same (K.image v b s hp hb h) rfl rfl rfl rfl
  started _ h := K.same h rfl rfl rfl rfl
  reloadEnds _ _ _ h := K.same h rfl rfl rfl rfl

/-- Every step keeps such a property. -/
theorem step {s t : State} (h : P s) (he : Machine.step s = .next t) : P t := K.commands.stepKept.step h he

end StoresKept

/-! ## The lanes' shares of the Band Pool and of the tone tables -/

theorem State.lanes_toList (s : State) : s.lanes.toList = [s.lane 0, s.lane 1, s.lane 2, s.lane 3] := by
  apply List.ext_getElem (by simp)
  intro i hi _
  have : i < 4 := by simpa using hi
  match i with
  | 0 | 1 | 2 | 3 => simp [State.lane]

/-- The sum over the lanes after one is replaced. -/
theorem State.sum_setLane (f : Lane → Nat) (s : State) (n : Fin 4) (l : Lane) :
    ((s.setLane n l).lanes.toList.map f).sum + f (s.lane n) = (s.lanes.toList.map f).sum + f l := by
  simp only [State.lanes_toList, State.setLane_lane]
  match n with
  | 0 | 1 | 2 | 3 => simp; omega

theorem countP_eq_sum (p : Lane → Bool) (ls : List Lane) : ls.countP p = (ls.map fun l => (p l).toNat).sum := by
  induction ls with
  | nil => rfl
  | cons l rest ih => cases h : p l <;> simp [h, ih, Nat.add_comm]

theorem State.countP_setLane (p : Lane → Bool) (s : State) (n : Fin 4) (l : Lane) :
    (s.setLane n l).lanes.toList.countP p + (p (s.lane n)).toNat = s.lanes.toList.countP p + (p l).toNat := by
  simpa only [countP_eq_sum] using State.sum_setLane (fun l => (p l).toNat) s n l

/-- Whether a lane's item uses the tone table `k` (R31). -/
def usesTone (k : Fin 4) (l : Lane) : Bool := l.snap.gActive && Fin.ofNat 4 (snapRecord l.snap).toneTable.toNat == k

/-- What the balance asks of one lane: only an item in OPEN or CLOSING has anything active, and only an IDLE lane takes a
header. -/
structure LaneQuiet (l : Lane) : Prop where
  quiet : l.state = .idle ∨ l.state = .discard → l.snap.bActive = false ∧ l.snap.gActive = false
  header : ∀ syms, l.taking = .header syms → l.state = .idle

theorem resourcesBalanced_iff (s : State) :
    ResourcesBalanced s ↔
      s.pool + (s.lanes.toList.map allocation).sum = 131072 ∧
        (∀ k : Fin 4, s.tables.inUse[k] = s.lanes.toList.countP (usesTone k)) ∧ ∀ n, LaneQuiet (s.lane n) :=
  ⟨fun h => ⟨h.pool, h.tones, fun n => ⟨h.quiet n, h.header n⟩⟩,
    fun h => ⟨h.1, h.2.1, fun n => (h.2.2 n).quiet, fun n => (h.2.2 n).header⟩⟩

namespace ResourcesBalanced

variable {s t : State}

theorem laneQuiet (h : ResourcesBalanced s) (n : Fin 4) : LaneQuiet (s.lane n) := ⟨h.quiet n, h.header n⟩

theorem same (h : ResourcesBalanced s) (hl : t.lanes = s.lanes) (hp : t.pool = s.pool)
    (hu : t.tables.inUse = s.tables.inUse) : ResourcesBalanced t := by
  have lane : ∀ n, t.lane n = s.lane n := fun n => congrArg (·[n]) hl
  exact ⟨hp ▸ hl ▸ h.pool, fun k => hu ▸ hl ▸ h.tones k, fun n => lane n ▸ h.quiet n, fun n => lane n ▸ h.header n⟩

/-- A lane replaced by one with another share, the pool and the in-use counts following it. -/
theorem replace (h : ResourcesBalanced s) (n : Fin 4) (l : Lane) (hl : LaneQuiet l) (ht : t.lanes = (s.setLane n l).lanes)
    (hp : t.pool + allocation l = s.pool + allocation (s.lane n))
    (hu : ∀ k : Fin 4, t.tables.inUse[k] + (usesTone k (s.lane n)).toNat = s.tables.inUse[k] + (usesTone k l).toNat) :
    ResourcesBalanced t := by
  obtain ⟨pool, tones, quiet⟩ := (resourcesBalanced_iff s).1 h
  have lane : ∀ m, t.lane m = (s.setLane n l).lane m := fun m => congrArg (·[m]) ht
  refine (resourcesBalanced_iff t).2 ⟨?_, fun k => ?_, fun m => ?_⟩
  · have := State.sum_setLane allocation s n l
    rw [ht]
    omega
  · have := State.countP_setLane (usesTone k) s n l
    have := hu k
    have := tones k
    rw [ht]
    omega
  · rw [lane, State.setLane_lane]
    split
    · exact hl
    · exact quiet m

/-- A lane replaced by one with the same snapshot. -/
theorem setLane (h : ResourcesBalanced s) (n : Fin 4) (l : Lane) (hl : LaneQuiet l) (hs : l.snap = (s.lane n).snap) :
    ResourcesBalanced (s.setLane n l) :=
  h.replace n l hl rfl (by simp [allocation, hs]) (by simp [usesTone, hs])

theorem itemFrame (h : ResourcesBalanced s) (n : Fin 4) {l : Lane} (f : ItemFrame (s.lane n) l) :
    ResourcesBalanced (s.setLane n l) :=
  h.setLane n l ⟨by rw [f.state, f.snap]; exact h.quiet n, by rw [f.state, f.taking]; exact h.header n⟩ f.snap

/-- A lane in OPEN or DISCARD enters CLOSING. -/
theorem closing (h : ResourcesBalanced s) (n : Fin 4) {l : Lane} (hn : (s.lane n).state ≠ .idle)
    (f : ItemFrame { s.lane n with state := .closing } l) : ResourcesBalanced (s.setLane n l) := by
  refine h.setLane n l ⟨?_, fun syms e => absurd (h.header n syms (f.taking ▸ e)) hn⟩ f.snap
  rw [f.state]
  simp

/-- R5: a header refused takes an IDLE lane to DISCARD. -/
theorem discard (h : ResourcesBalanced s) (n : Fin 4) (hi : (s.lane n).state = .idle) (header : ItemHeader)
    (reason : Reason) : ResourcesBalanced (s.setLane n (discardItem header reason (s.lane n))) := by
  have quiet := h.quiet n (.inl hi)
  refine h.replace n _ ⟨by simp [discardItem, clearItem], by simp [discardItem, clearItem]⟩ rfl ?_ fun k => ?_
  · simp [allocation, discardItem, clearItem, quiet]
  · simp [usesTone, discardItem, clearItem, quiet]

end ResourcesBalanced

/-- R54: a grant fits into the free bytes. -/
theorem poolGrant_le {free w h k : Nat} (e : poolGrant free w h = some k) : k * w ≤ free := by
  simpa using List.find?_some e

theorem itemGrant_le {r : Record} {wIn free h : Nat} (e : itemGrant r wIn free = some h) :
    h * itemWidthB r wIn ≤ free := by
  unfold itemGrant at e
  split at e
  · exact poolGrant_le e
  · cases e

theorem allocation_openItem_le (h : ItemHeader) (r : Record) (free : Nat) (l : Lane) :
    allocation (openItem h r free l) ≤ free := by
  rw [allocation_openItem]
  cases e : itemGrant r h.wIn.toNat free with
  | none => simp
  | some k => simpa using itemGrant_le e

theorem getElem_set_fin {α : Type} (v : Vector α 4) (j k : Fin 4) (x : α) : (v.set j x)[k] = if k = j then x else v[k] := by
  by_cases h : k = j
  · subst h; simp
  · have : j.val ≠ k.val := fun e => h (Fin.ext e.symm)
    simp [h, this]

theorem raiseInUse_inUse (t : TableStore) (j k : Fin 4) :
    (raiseInUse t j).inUse[k] = t.inUse[k] + (j == k).toNat := by
  rw [raiseInUse, getElem_set_fin]
  by_cases h : k = j
  · simp [h]
  · rw [if_neg h, beq_false_of_ne (Ne.symm h), Bool.toNat_false, Nat.add_zero]

theorem lowerInUse_inUse (t : TableStore) (j k : Fin 4) :
    (lowerInUse t j).inUse[k] = t.inUse[k] - (j == k).toNat := by
  rw [lowerInUse, getElem_set_fin]
  by_cases h : k = j
  · simp [h]
  · rw [if_neg h, beq_false_of_ne (Ne.symm h), Bool.toNat_false, Nat.sub_zero]

theorem ResourcesBalanced.checkOpen {s : State} (h : ResourcesBalanced s) (n : Fin 4) (syms : List Symbol)
    (hi : (s.lane n).state = .idle) : ResourcesBalanced (s.checkOpen n syms) := by
  have quiet := h.quiet n (.inl hi)
  unfold State.checkOpen
  dsimp only
  split
  · exact h.discard n hi _ _
  · split
    · generalize s.tables.profiles[Fin.ofNat 16 (headerOf syms).profile.toNat].record = r
      generalize headerOf syms = header
      have fits := allocation_openItem_le header r s.pool (s.lane n)
      refine h.replace n (openItem header r s.pool (s.lane n)) ⟨by simp [openItem], by simp [openItem, clearItem]⟩ ?_ ?_
        fun k => ?_
      · unfold State.raiseTone; split <;> rfl
      · have : allocation (s.lane n) = 0 := by simp [allocation, quiet]
        have : ((((s.setLane n (openItem header r s.pool (s.lane n))).withPool
            (s.pool - allocation (openItem header r s.pool (s.lane n)))).raiseTone
              (openItem header r s.pool (s.lane n)).snap)).pool =
            s.pool - allocation (openItem header r s.pool (s.lane n)) := by
          unfold State.raiseTone; split <;> rfl
        omega
      · unfold State.raiseTone usesTone
        split
        case isTrue on =>
          change (raiseInUse s.tables (recordTone (snapRecord (openItem header r s.pool (s.lane n)).snap))).inUse[k] +
            ((s.lane n).snap.gActive && _).toNat = _
          rw [raiseInUse_inUse, on, quiet.2]
          rfl
        case isFalse off => simp [off, quiet]
    · exact h.discard n hi _ _

theorem ResourcesBalanced.endClosing {s : State} (h : ResourcesBalanced s) (n : Fin 4)
    (_ : (s.lane n).state = .closing) : ResourcesBalanced (s.endClosing n) := by
  have e := State.setLane_endClosing s n (s.lane n)
  rw [State.setLane_self] at e
  rw [e]
  refine h.replace n (queueFinal (s.lane n)) ⟨by simp [queueFinal], by simp [queueFinal]⟩ rfl ?_ fun k => ?_
  · change s.pool + allocation (s.lane n) + allocation (queueFinal (s.lane n)) = _
    simp [queueFinal, allocation]
  · have users : (usesTone k (s.lane n)).toNat ≤ s.tables.inUse[k] := by
      rw [h.tones k]
      have := State.countP_setLane (usesTone k) s n {}
      have none : usesTone k {} = false := rfl
      rw [none] at this
      change _ ≤ s.lanes.toList.countP (usesTone k)
      simp only [Bool.toNat_false] at this
      omega
    have after : usesTone k (queueFinal (s.lane n)) = false := rfl
    rw [after]
    dsimp only
    unfold usesTone at users ⊢
    split
    case isTrue on =>
      simp only [on, Bool.true_and] at users ⊢
      rw [lowerInUse_inUse]
      exact Nat.sub_add_cancel users
    case isFalse off => simp [off]

theorem laneQuiet_of_default : LaneQuiet {} := ⟨by simp, by simp⟩

/-- A part whose lanes, pool and in-use counts stand as after a reset. -/
theorem ResourcesBalanced.of_reset {s : State} (hl : s.lanes = Vector.replicate 4 {}) (hp : s.pool = poolBytes)
    (hu : s.tables.inUse = Vector.replicate 4 0) : ResourcesBalanced s := by
  have lane : ∀ n, s.lane n = {} := fun n => by simp [State.lane, hl]
  refine (resourcesBalanced_iff s).2 ⟨?_, fun k => ?_, fun n => lane n ▸ laneQuiet_of_default⟩
  · rw [hp, State.lanes_toList]
    simp only [lane]
    rfl
  · rw [hu, State.lanes_toList]
    simp only [lane]
    simp [usesTone]

theorem applyStaging_inUse (t : TableStore) (g : Staging) : (applyStaging t g).inUse = t.inUse := by
  have profiles : ∀ (es : List (Fin 16 × Record)) (t : TableStore),
      (es.foldl (fun t e => setProfile t e.1 e.2) t).inUse = t.inUse := by
    intro es
    induction es with
    | nil => exact fun _ => rfl
    | cons e rest ih => exact fun t => (ih _).trans rfl
  have tones : ∀ (es : List (Fin 4 × List Byte)) (t : TableStore),
      (es.foldl (fun t e => setTone t e.1 e.2) t).inUse = t.inUse := by
    intro es
    induction es with
    | nil => exact fun _ => rfl
    | cons e rest ih => exact fun t => (ih _).trans rfl
  exact (tones _ _).trans (profiles _ _)

theorem laneKept_resourcesBalanced : LaneKept ResourcesBalanced where
  quiet n l s q h := by
    refine h.setLane n l ⟨by rw [q.state, q.snap]; exact h.quiet n, fun syms e => ?_⟩ q.snap
    rw [q.state]
    rcases q.taking syms e with idle | ⟨earlier, taken⟩
    · exact idle
    · exact h.header n earlier taken
  endLine n s h := by
    refine (h.itemFrame n (ItemFrame.endLine (s.laneTone n) (Config.groupFirst s.orderIndex) n (s.lane n))).same
      ?_ ?_ ?_ <;>
      (unfold State.endLineOf State.noteLost; dsimp only; split <;> rfl)
  closeOpened n s ho h := h.closing n (by simp [ho]) (.closingWork _ n _)
  closeDiscard n s hd h := h.closing n (by simp [hd]) ⟨rfl, rfl, rfl, rfl, rfl, rfl⟩
  abortItem n s hi h := by
    refine h.closing n hi ?_
    cases hs : (s.lane n).state with
    | idle => exact absurd hs hi
    | opened | discard => simp only [abortItem, hs]; exact ⟨rfl, rfl, rfl, rfl, rfl, rfl⟩
    | closing => simp only [abortItem, hs]; exact ⟨hs, rfl, rfl, rfl, rfl, rfl⟩
  queueFinal n s room h := by
    refine h.endClosing n ?_
    simp only [canQueue, Bool.and_eq_true, beq_iff_eq] at room
    exact room.1.1
  checkOpen n syms s taking h := by
    obtain ⟨earlier, e⟩ := taking
    exact h.checkOpen n syms (h.header n earlier e)

theorem storesKept_resourcesBalanced : StoresKept ResourcesBalanced where
  same h hl hp ht _ := h.same hl hp (congrArg TableStore.inUse ht)
  lanes := laneKept_resourcesBalanced
  storeTail n _ h := h.itemFrame n ⟨rfl, rfl, rfl, rfl, rfl, rfl⟩
  profile _ _ _ _ h := h.same rfl rfl rfl
  tone _ _ _ h := h.same rfl rfl rfl
  timebase _ _ _ _ _ _ h := h.same rfl rfl rfl
  restart _ _ _ := .of_reset rfl rfl rfl
  blocksReset _ _ _ := .of_reset rfl rfl rfl
  bootStarts _ _ h := h.same rfl rfl rfl
  bootIdle _ h := h.same rfl rfl rfl
  bootMore _ _ _ _ _ h := h.same rfl rfl rfl
  bootApply _ h := h.same rfl rfl rfl
  image _ _ _ _ _ h := h.same rfl rfl (applyStaging_inUse _ _)

/-- Settles O46: the lane that opens or leaves an item moves its share between itself, the pool and the counts; every
other change leaves the shares. -/
theorem stepKeepsResourcesBalanced : Obligations.StepKeepsResourcesBalanced :=
  fun _ _ h he => storesKept_resourcesBalanced.step h he

end Sys2Proof.Machine
end

section
/-! SUPPORT. R24, R26, R35, R72 to R74, R162: every step keeps the tables legal and the thresholds within their clamp. -/

namespace Sys2Proof.Machine

/-! ## The record checks (R26) -/

/-- R26: what LOAD PROFILE accepts. -/
theorem recordOk_iff (r : Record) : recordOk r = true ↔ acceptable r := by
  have depth : ∀ d : Byte, ((d == 4) = true ∨ (d == 8) = true) ↔ (d.toNat = 4 ∨ d.toNat = 8) := by
    intro d
    simp only [beq_iff_eq, ← BitVec.toNat_inj]
    rfl
  simp only [recordOk, recordInRange, recordConsistent, spanOk, acceptable, Bool.and_eq_true, Bool.or_eq_true,
    decide_eq_true_eq, depth, and_assoc]

theorem fieldAt_take (w : List Byte) (i k m : Nat) (h : i + k ≤ m) : fieldAt (w.take m) i k = fieldAt w i k := by
  unfold fieldAt
  rw [List.drop_take, List.take_take, Nat.min_eq_left (by omega)]

theorem getD_take (w : List Byte) (i m : Nat) (h : i < m) : (w.take m).getD i 0 = w.getD i 0 := by
  simp [List.getD_eq_getElem?_getD, h]

/-- R162 test 4: a field's test reads the record's bytes up to the field's last one. -/
theorem recordFieldOk_take (off : Nat) (w : List Byte) : recordFieldOk off (w.take (off + 1)) = recordFieldOk off w := by
  unfold recordFieldOk
  rw [getD_take w off _ off.lt_succ_self]
  split <;> simp [fieldAt_take]

theorem recordOfBytes_take (w : List Byte) : recordOfBytes (w.take 36) = recordOfBytes w := by
  simp [recordOfBytes, fieldAt_take]

/-- R162 test 4: a record whose bytes pass their tests one by one, and which is consistent, is acceptable. -/
theorem acceptable_of_fields (w : List Byte) (fields : ∀ off < 36, recordFieldOk off w = true)
    (consistent : recordConsistent (recordOfBytes w) = true) : acceptable (recordOfBytes w) := by
  have word : ∀ i, (BitVec.ofNat 16 (fieldAt w i 2)).toNat = fieldAt w i 2 := fun i => by
    have := fieldAt_two_le w i
    simp only [BitVec.toNat_ofNat]
    omega
  rw [← recordOk_iff, recordOk, consistent, Bool.and_true]
  simp only [recordInRange, recordOfBytes, word, Bool.and_eq_true, and_assoc]
  exact ⟨fields 0 (by decide), fields 1 (by decide), fields 2 (by decide), fields 3 (by decide), fields 4 (by decide),
    fields 5 (by decide), fields 10 (by decide), fields 11 (by decide), fields 12 (by decide), fields 13 (by decide),
    fields 14 (by decide), fields 15 (by decide), fields 16 (by decide), fields 22 (by decide), fields 24 (by decide)⟩

/-! ## A pass over the boot image (R162) -/

/-- R162: a profile entry whose 37 bytes have passed their tests holds an acceptable record. -/
theorem acceptable_of_entry (entry : List Byte)
    (passed : ∀ off < 37, profileByteOk off (entry.getD off 0) ((entry.take (off + 1)).drop 1) = true) :
    acceptable (recordOfBytes (entry.drop 1)) := by
  have taken : ∀ off, ((entry.take (off + 2)).drop 1) = (entry.drop 1).take (off + 1) := fun off => by
    rw [List.drop_take]
    rfl
  have fields : ∀ off < 36, recordFieldOk off (entry.drop 1) = true := fun off h => by
    have := passed (off + 1) (by omega)
    rw [profileByteOk, if_neg (by omega), Bool.and_eq_true, taken, Nat.add_sub_cancel, recordFieldOk_take] at this
    exact this.1
  refine acceptable_of_fields _ fields ?_
  have last := passed 36 (by decide)
  rw [profileByteOk, if_neg (by decide), Bool.and_eq_true, taken 35, recordOfBytes_take] at last
  simpa using last.2

/-- R161: a byte that is taken leaves the pass in its phase. -/
theorem bootByte_phase {b b' : BootLoader} {v : Byte} (e : bootByte b v = .more b') : b'.phase = b.phase := by
  unfold bootByte at e
  split_ifs at e
  · unfold bootHeaderByte at e
    dsimp only at e
    split at e
    case h_6 => cases e; rfl
    all_goals split at e <;> cases e; rfl
  · unfold bootProfileByte at e
    dsimp only at e
    split_ifs at e <;> cases e <;> rfl
  · unfold bootToneByte at e
    dsimp only at e
    split_ifs at e <;> cases e <;> rfl
  · unfold bootSumByte at e
    dsimp only at e
    split_ifs at e
    cases e
    rfl

/-- R162: the last byte of a pass ends its sum, behind the image's header; it stages nothing. -/
theorem bootByte_passed {b b' : BootLoader} {v : Byte} (e : bootByte b v = .passed b') :
    7 ≤ b.position ∧ b'.staging = b.staging := by
  unfold bootByte at e
  split_ifs at e
  · unfold bootHeaderByte at e
    dsimp only at e
    split at e
    case h_6 => cases e
    all_goals split at e <;> cases e
  · unfold bootProfileByte at e
    dsimp only at e
    split_ifs at e
  · unfold bootToneByte at e
    dsimp only at e
    split_ifs at e
  · unfold bootSumByte at e
    dsimp only at e
    split_ifs at e
    cases e
    exact ⟨by omega, rfl⟩

namespace StagingPassed

variable {b b' : BootLoader} {v : Byte}

/-- A Boot Loader that is not in its apply pass has staged nothing that is not in `staging`. -/
theorem of_not_apply (h : StagingPassed b) (hp : b'.phase ≠ .apply) (hs : b'.staging = b.staging) : StagingPassed b' :=
  ⟨hs ▸ h.prescale, hs ▸ h.profiles, fun e => absurd e hp, fun e => absurd e hp⟩

/-- A pass from the first byte, with nothing staged. -/
theorem start (phase : BootPhase) (purpose : Option BootPurpose) :
    StagingPassed { phase := phase, purpose := purpose } :=
  ⟨by simp, by simp, by simp, by simp⟩

theorem header (h : StagingPassed b) (hp : b.position < 7) (e : bootHeaderByte b v = .more b') : StagingPassed b' := by
  unfold bootHeaderByte at e
  dsimp only at e
  split at e
  case h_1 pos | h_2 pos =>
    split at e <;> cases e
    exact ⟨h.prescale, h.profiles, fun _ => by simp [bootAdvance, pos], fun _ => by simp [bootAdvance, pos]⟩
  case h_3 pos | h_4 pos =>
    split at e <;> cases e
    exact ⟨h.prescale, h.profiles, fun _ => by simp [bootAdvance, pos], fun _ => by simp [bootAdvance, pos]⟩
  case h_5 pos =>
    split at e <;> cases e
    rename_i code
    exact ⟨code, h.profiles, fun _ => by simp [bootAdvance, pos], fun _ => by simp [bootAdvance, pos]⟩
  case h_6 pos =>
    cases e
    exact ⟨h.prescale, h.profiles, fun _ => by simp [bootAdvance, pos], fun _ => by simp [bootAdvance, pos]⟩
  case h_7 h0 h1 h2 h3 h4 h5 =>
    have pos : b.position = 6 := by
      simp only [imp_false] at *
      omega
    split at e
    case isFalse => cases e
    case isTrue nonzero =>
      cases e
      refine ⟨h.prescale, h.profiles, fun apply => ⟨by simp [bootAdvance, pos], fun _ => ⟨?_, ?_⟩⟩, fun _ _ _ =>
        ⟨by simp, by simp⟩⟩
      · exact Nat.one_le_iff_ne_zero.2 nonzero
      · have short := (h.divisor apply).1 pos
        match hw : b.window, short with
        | [hi], _ =>
          have := hi.isLt
          have := v.isLt
          simp [beValue]
          omega

theorem profile (h : StagingPassed b) (hp : 7 ≤ b.position) (ht : b.position < toneStart b)
    (e : bootProfileByte b v = .more b') (ha : b.phase = .apply) : StagingPassed b' := by
  obtain ⟨short, passed⟩ := h.entry ha hp ht
  unfold bootProfileByte at e
  dsimp only at e
  split at e
  case isFalse => cases e
  case isTrue good =>
    -- the entry's bytes so far and the new one, each tested with those before it
    have all : ∀ off, off < (b.window ++ [v]).length →
        profileByteOk off ((b.window ++ [v]).getD off 0) (((b.window ++ [v]).take (off + 1)).drop 1) = true := by
      intro off hoff
      rw [List.length_append, List.length_singleton] at hoff
      rcases Nat.lt_or_ge off b.window.length with before | new
      · have := passed off before
        rwa [List.take_append_of_le_length before, List.getD_append _ _ _ _ before]
      · obtain rfl : off = b.window.length := by omega
        rw [List.take_of_length_le (by simp)]
        simpa using good
    split at e
    case isTrue full =>
      cases e
      refine ⟨h.prescale, ?_, fun _ => ⟨fun p => ?_, fun _ => (h.divisor ha).2 hp⟩, fun _ _ _ => ⟨by simp, by simp⟩⟩
      · intro entry member
        rcases List.mem_append.1 member with earlier | last
        · exact h.profiles entry earlier
        · rw [List.mem_singleton.1 last]
          exact acceptable_of_entry _ fun off hoff => all off (by simp; omega)
      · simp only [bootAdvance] at p
        omega
    case isFalse more =>
      cases e
      refine ⟨h.prescale, h.profiles, fun _ => ⟨fun p => ?_, fun _ => (h.divisor ha).2 hp⟩, fun _ _ _ =>
        ⟨by simp; omega, all⟩⟩
      simp only [bootAdvance] at p
      omega

theorem tone (h : StagingPassed b) (ht : toneStart b ≤ b.position) (e : bootToneByte b v = .more b')
    (ha : b.phase = .apply) : StagingPassed b' := by
  have divisor := (h.divisor ha).2 (by unfold toneStart at ht; omega)
  unfold toneStart at ht
  unfold bootToneByte at e
  dsimp only at e
  split at e
  · cases e
  · split at e <;> cases e <;>
      exact ⟨h.prescale, h.profiles, fun _ => ⟨fun p => by simp only [bootAdvance] at p; omega, fun _ => divisor⟩,
        fun _ _ p => by simp only [bootAdvance] at p; omega⟩

theorem sum (h : StagingPassed b) (hs : sumStart b ≤ b.position) (e : bootSumByte b v = .more b')
    (ha : b.phase = .apply) : StagingPassed b' := by
  unfold sumStart toneStart at hs
  have divisor := (h.divisor ha).2 (by omega)
  unfold bootSumByte at e
  dsimp only at e
  split at e
  · cases e
    exact ⟨h.prescale, h.profiles, fun _ => ⟨fun p => by dsimp only at p; omega, fun _ => divisor⟩,
      fun _ _ p => by dsimp only at p; omega⟩
  · split at e <;> cases e

/-- R162, R163: a byte that passes its test leaves what is staged and what is in the window tested. -/
theorem more (h : StagingPassed b) (e : bootByte b v = .more b') : StagingPassed (keepStaging b b') := by
  have phase := bootByte_phase e
  unfold keepStaging
  split
  case isFalse checks => exact h.of_not_apply (by simpa [phase] using checks) rfl
  case isTrue ha =>
    unfold bootByte at e
    split at e
    case isTrue hp => exact h.header hp e
    case isFalse hp =>
      split at e
      case isTrue ht => exact h.profile (by omega) ht e ha
      case isFalse ht =>
        split at e
        · exact h.tone (by omega) e ha
        · exact h.sum (by omega) e ha

end StagingPassed

/-! ## The lanes' records and thresholds -/

/-- What `TablesLegal` asks of a lane: its item's record is acceptable, and the threshold that its active band store
carries lies within the record's clamp. -/
structure LaneLegal (l : Lane) : Prop where
  item : ∀ r ∈ l.snap.record, acceptable r
  threshold : l.band.active = true → ∀ r ∈ l.snap.record, r.tMin.toNat ≤ l.band.tPrev ∧ l.band.tPrev ≤ r.tMax.toNat

/-- R72: the clamp answers a value between its bounds. -/
theorem clampTo_mem {lo hi : Nat} (h : lo ≤ hi) (v : Nat) : lo ≤ clampTo lo hi v ∧ clampTo lo hi v ≤ hi := by
  unfold clampTo
  split_ifs <;> omega

/-- R67, R72 to R74: the threshold of a band lies within its record's clamp, if the one carried does. -/
theorem tBand_mem {r : Record} (hr : acceptable r) {tPrev : Nat} (lo : r.tMin.toNat ≤ tPrev) (hi : tPrev ≤ r.tMax.toNat)
    (hist : Vector Nat 64) (rows w : Nat) :
    r.tMin.toNat ≤ (thresholdContext r hist rows w tPrev).tBand ∧
      (thresholdContext r hist rows w tPrev).tBand ≤ r.tMax.toNat := by
  obtain ⟨_, _, _, _, _, _, _, _, _, _, _, _, _, _, _, ⟨initLo, initHi⟩, _⟩ := hr
  unfold thresholdContext
  dsimp only
  split
  · exact ⟨initLo, initHi⟩
  · have clamp := clampTo_mem (initLo.trans initHi) (4 * seek hist (rows * w * r.target.toNat / 256))
    simp only [blend]
    omega

theorem RowsKept.laneLegal : RowsKept LaneLegal where
  channels _ _ _ h := ⟨h.item, h.threshold⟩
  takeB n i row l h := by
    unfold takeBRow
    dsimp only
    split
    case isFalse => exact h
    case isTrue active =>
      split
      case isFalse => exact ⟨h.item, h.threshold⟩
      case isTrue =>
        refine ⟨h.item, fun _ r hr => ?_⟩
        have hr' : l.snap.record = some r := hr
        have record : snapRecord l.snap = r := by rw [snapRecord, hr', Option.getD_some]
        obtain ⟨lo, hi⟩ := h.threshold active r hr
        simp only [closeBand, bandAfterClose, bandContext, record]
        exact tBand_mem (h.item r hr) lo hi _ _ _
  takeG tone n i row l h := by
    unfold takeGRow
    dsimp only
    split
    · split <;> exact ⟨h.item, h.threshold⟩
    · exact h

theorem LaneLegal.offer (g : Segment) {l : Lane} (h : LaneLegal l) : LaneLegal (offer g l) := by
  unfold Machine.offer
  split <;> exact ⟨h.item, h.threshold⟩

theorem LaneLegal.closingWork (tone : Vector Byte 256) (n : Fin 4) {l : Lane} (h : LaneLegal l) :
    LaneLegal (closingWork tone n l) := by
  refine closingWork_kept RowsKept.laneLegal (fun _ _ _ h => ⟨h.item, h.threshold⟩) (fun n m h => ?_) (fun n m h => ?_)
    (fun _ _ h => ⟨h.item, h.threshold⟩) tone n l ⟨h.item, h.threshold⟩
  · unfold finishBand
    split <;> exact ⟨h.item, by simp⟩
  · unfold finishGroup
    split <;> exact ⟨h.item, h.threshold⟩

theorem LaneLegal.abortItem (n : Fin 4) {l : Lane} (h : LaneLegal l) : LaneLegal (abortItem n l) := by
  unfold Machine.abortItem
  split
  · exact ⟨h.item, by simp [abortOpen, compose, bandIdle]⟩
  · exact ⟨h.item, h.threshold⟩
  · exact ⟨h.item, h.threshold⟩
  · exact h

theorem LaneLegal.openItem (header : ItemHeader) {r : Record} (hr : acceptable r) (free : Nat) (l : Lane) :
    LaneLegal (openItem header r free l) := by
  have record : (Machine.openItem header r free l).snap.record = some r := rfl
  refine ⟨fun r' e => by rw [record] at e; cases e; exact hr, fun active r' e => ?_⟩
  rw [record] at e
  cases e
  obtain ⟨_, _, _, _, _, _, _, _, _, _, _, _, _, _, _, ⟨initLo, initHi⟩, _⟩ := hr
  unfold Machine.openItem at active ⊢
  dsimp only at active ⊢
  split at active
  case isTrue granted => simp only [granted, if_true, bandSetup]; exact ⟨initLo, initHi⟩
  case isFalse => simp [clearItem, bandCleared, bandIdle] at active

theorem LaneLegal.discardItem (header : ItemHeader) (reason : Reason) (l : Lane) :
    LaneLegal (discardItem header reason l) := ⟨by simp [Machine.discardItem, clearItem], by
      simp [Machine.discardItem, clearItem, bandCleared, bandIdle]⟩

/-! ## The Table Store -/

/-- What `TablesLegal` asks of the Table Store. -/
structure StoreLegal (t : TableStore) : Prop where
  profiles : ∀ k : Fin 16, t.profiles[k].valid = true → acceptable t.profiles[k].record
  setting : t.prescale ≤ 31 ∧ 1 ≤ t.divisor ∧ t.divisor ≤ 65535

theorem StoreLegal.setProfile {t : TableStore} (h : StoreLegal t) (k : Fin 16) {r : Record} (hr : acceptable r) :
    StoreLegal (setProfile t k r) := by
  refine ⟨fun j valid => ?_, h.setting⟩
  by_cases hj : j = k
  · subst hj
    simpa [Machine.setProfile] using hr
  · have : k.val ≠ j.val := fun e => hj (Fin.ext e.symm)
    simp only [Machine.setProfile, Fin.getElem_fin, Vector.getElem_set_ne _ _ this] at valid ⊢
    exact h.profiles j valid

theorem StoreLegal.setTimebase {t : TableStore} (h : StoreLegal t) {code divisor : Nat} (hc : code ≤ 31)
    (h1 : 1 ≤ divisor) (hd : divisor ≤ 65535) : StoreLegal (setTimebase t code divisor) :=
  ⟨h.profiles, hc, h1, hd⟩

theorem StoreLegal.applyStaging {t : TableStore} (h : StoreLegal t) {g : Staging} (hc : g.prescale ≤ 31)
    (h1 : 1 ≤ g.divisor) (hd : g.divisor ≤ 65535) (hp : ∀ e ∈ g.profiles, acceptable e.2) :
    StoreLegal (applyStaging t g) := by
  have profiles : ∀ (es : List (Fin 16 × Record)) (t : TableStore), (∀ e ∈ es, acceptable e.2) → StoreLegal t →
      StoreLegal (es.foldl (fun t e => Machine.setProfile t e.1 e.2) t) := by
    intro es
    induction es with
    | nil => exact fun _ _ ht => ht
    | cons e rest ih =>
      exact fun t he ht => ih _ (fun x hx => he x (by simp [hx])) (ht.setProfile _ (he e (by simp)))
  have tones : ∀ (es : List (Fin 4 × List Byte)) (t : TableStore), StoreLegal t →
      StoreLegal (es.foldl (fun t e => setTone t e.1 e.2) t) := by
    intro es
    induction es with
    | nil => exact fun _ ht => ht
    | cons e rest ih => exact fun t ht => ih _ ⟨ht.profiles, ht.setting⟩
  exact tones _ _ (profiles _ _ hp (h.setTimebase hc h1 hd))

theorem StoreLegal.default : StoreLegal {} := ⟨by simp, by decide⟩

/-! ## The steps -/

theorem tablesLegal_iff (s : State) :
    TablesLegal s ↔ StoreLegal s.tables ∧ (∀ n, LaneLegal (s.lane n)) ∧ StagingPassed s.boot :=
  ⟨fun h => ⟨⟨h.profiles, h.setting⟩, fun n => ⟨h.items n, h.thresholds n⟩, h.staged⟩,
    fun h => ⟨h.1.profiles, h.1.setting, fun n => (h.2.1 n).item, fun n => (h.2.1 n).threshold, h.2.2⟩⟩

namespace TablesLegal

variable {s t : State}

theorem store (h : TablesLegal s) : StoreLegal s.tables := ⟨h.profiles, h.setting⟩

theorem lane (h : TablesLegal s) (n : Fin 4) : LaneLegal (s.lane n) := ⟨h.items n, h.thresholds n⟩

/-- A change of the Table Store and of the Boot Loader. -/
theorem replace (h : TablesLegal s) (hl : t.lanes = s.lanes) (hs : StoreLegal t.tables) (hb : StagingPassed t.boot) :
    TablesLegal t := by
  have lane : ∀ n, t.lane n = s.lane n := fun n => congrArg (·[n]) hl
  exact (tablesLegal_iff t).2 ⟨hs, fun n => lane n ▸ h.lane n, hb⟩

/-- A lane replaced, nothing else of what `TablesLegal` speaks of. -/
theorem setLane (h : TablesLegal s) (n : Fin 4) {l : Lane} (hl : LaneLegal l) : TablesLegal (s.setLane n l) := by
  refine (tablesLegal_iff _).2 ⟨h.store, fun m => ?_, h.staged⟩
  rw [State.setLane_lane]
  split
  · exact hl
  · exact h.lane m

/-- A part whose lanes stand as after a reset. -/
theorem of_reset (hl : s.lanes = Vector.replicate 4 {}) (hs : StoreLegal s.tables) (hb : s.boot = {}) : TablesLegal s := by
  refine (tablesLegal_iff s).2 ⟨hs, fun n => ?_, hb ▸ .start .idle none⟩
  rw [State.lane, hl, Fin.getElem_fin, Vector.getElem_replicate]
  exact ⟨by simp, by simp⟩

end TablesLegal

theorem LaneFrame.storeLegal {n : Fin 4} {s t : State} (f : LaneFrame n s t) (h : StoreLegal s.tables) :
    StoreLegal t.tables := by
  rw [f.tables]
  exact ⟨h.profiles, h.setting⟩

/-- An operation of lane `n` that leaves the lane legal. -/
theorem TablesLegal.laneFrame {n : Fin 4} {s t : State} (h : TablesLegal s) (f : LaneFrame n s t)
    (hl : LaneLegal (t.lane n)) : TablesLegal t := by
  refine (tablesLegal_iff t).2 ⟨f.storeLegal h.store, fun m => ?_, f.boot ▸ h.staged⟩
  by_cases hm : m = n
  · exact hm ▸ hl
  · exact f.others m hm ▸ h.lane m

theorem State.endLineOf_lane (n : Fin 4) (s : State) :
    (s.endLineOf n).lane n = endLine (s.laneTone n) (Config.groupFirst s.orderIndex) n (s.lane n) := by
  unfold State.endLineOf State.noteLost
  dsimp only
  split <;> exact State.setLane_lane_same ..

theorem State.endClosing_lane (n : Fin 4) (s : State) : (s.endClosing n).lane n = queueFinal (s.lane n) := by
  have e := State.setLane_endClosing s n (s.lane n)
  rw [State.setLane_self] at e
  rw [e]
  exact State.setLane_lane_same s n _

/-- R3 to R5: the lane that checked an ITEM OPEN: in DISCARD, or with its item opened on a valid profile. -/
theorem State.checkOpen_lane (n : Fin 4) (syms : List Symbol) (s : State) :
    (∃ reason, (s.checkOpen n syms).lane n = discardItem (headerOf syms) reason (s.lane n)) ∨
      ∃ k : Fin 16, s.tables.profiles[k].valid = true ∧
        (s.checkOpen n syms).lane n = openItem (headerOf syms) s.tables.profiles[k].record s.pool (s.lane n) := by
  unfold State.checkOpen
  dsimp only
  split
  · exact .inl ⟨_, State.setLane_lane_same ..⟩
  · split
    case isTrue valid =>
      refine .inr ⟨_, valid, ?_⟩
      unfold State.raiseTone
      split <;> exact State.setLane_lane_same ..
    case isFalse => exact .inl ⟨_, State.setLane_lane_same ..⟩

theorem laneKept_tablesLegal : LaneKept TablesLegal where
  quiet n l s q h := h.setLane n
    ⟨by rw [q.snap]; exact h.items n, by rw [q.snap, q.band]; exact h.thresholds n⟩
  endLine n s h := h.laneFrame (.endLineOf n s) (State.endLineOf_lane n s ▸
    RowsKept.laneLegal.endLine _ _ n (fun g _ hl => hl.offer g) (h.lane n))
  closeOpened n s _ h := h.setLane n ((h.lane n).closingWork _ n)
  closeDiscard n _ _ h := h.setLane n ⟨h.items n, h.thresholds n⟩
  abortItem n _ _ h := h.setLane n ((h.lane n).abortItem n)
  queueFinal n s _ h := h.laneFrame (.endClosing n s) (State.endClosing_lane n s ▸
    ⟨by simp [queueFinal], by simp [queueFinal]⟩)
  checkOpen n syms s _ h := by
    refine h.laneFrame (.checkOpen n s syms) ?_
    rcases State.checkOpen_lane n syms s with ⟨reason, e⟩ | ⟨k, valid, e⟩
    · exact e ▸ LaneLegal.discardItem _ _ _
    · exact e ▸ LaneLegal.openItem _ (h.profiles k valid) _ _

theorem storesKept_tablesLegal : StoresKept TablesLegal where
  same h hl _ ht hb := h.replace hl (ht ▸ h.store) (hb ▸ h.staged)
  lanes := laneKept_tablesLegal
  storeTail n s h := h.setLane n ⟨h.items n, h.thresholds n⟩
  profile k _ s ok h := h.replace rfl (h.store.setProfile k ((recordOk_iff _).1 ok)) h.staged
  tone _ _ s h := h.replace rfl ⟨h.profiles, h.setting⟩ h.staged
  timebase _ _ s hc h0 hd h := h.replace rfl (h.store.setTimebase hc (Nat.one_le_iff_ne_zero.2 h0) hd) h.staged
  restart _ _ h := .of_reset rfl ⟨h.profiles, h.setting⟩ rfl
  blocksReset _ _ _ := .of_reset rfl .default rfl
  bootStarts _ s h := h.replace rfl h.store (.start _ _)
  bootIdle s h := h.replace rfl h.store (.start _ _)
  bootMore _ _ s _ e h := h.replace rfl h.store (h.staged.more e)
  bootApply s h := h.replace rfl h.store (.start _ _)
  image _ b s apply e h := by
    obtain ⟨position, staging⟩ := bootByte_passed e
    obtain ⟨lo, hi⟩ := (h.staged.divisor apply).2 position
    refine h.replace rfl ?_ h.staged
    rw [staging]
    exact h.store.applyStaging h.staged.prescale lo hi h.staged.profiles

/-- Settles O49: a record becomes a valid profile, and a profile an item's record, only by passing the checks of R26;
every band's threshold is a blend of two values within the clamp. -/
theorem stepKeepsTablesLegal : Obligations.StepKeepsTablesLegal :=
  fun _ _ h he => storesKept_tablesLegal.step h he

end Sys2Proof.Machine
end

section
/-! SUPPORT. R121 to R123, R128: every step keeps the emission stack nested. Its entries stand for the heads of their
sources; what is queued goes to a source's tail, and only the end of the top entry's SEG CLOSE takes a head away. -/

namespace Sys2Proof.Machine

/-! ## Sources that grow -/

/-- The class of a source's head segment. -/
def State.headClassOf (s : State) (src : Source) : Option Nat := (s.segmentOf src).map fun g => headerClass g.header

/-- A source that offers a segment still offers it, or another of its class. -/
def HeadsKept (s t : State) : Prop := ∀ src c, s.headClassOf src = some c → t.headClassOf src = some c

/-- What stood in the reply queue and in the stores still stands at their heads. -/
theorem HeadsKept.of_append {s t : State} (replies : ∃ more, t.replies = s.replies ++ more)
    (stores : ∀ n, ∃ more, (t.lane n).store = (s.lane n).store ++ more) : HeadsKept s t := by
  have head : ∀ {a b : List Segment} {c}, (∃ more, b = a ++ more) →
      a.head?.map (fun g => headerClass g.header) = some c → b.head?.map (fun g => headerClass g.header) = some c := by
    rintro (_ | ⟨g, a⟩) b c ⟨more, rfl⟩ e
    · simp at e
    · exact e
  rintro (n | _ | ⟨cause, tag⟩) c e
  · exact head (stores n) e
  · exact head replies e
  · exact e

namespace StackNested

variable {s t : State}

/-- A change outside the stack that keeps the heads of the sources. -/
theorem of_heads (h : StackNested s) (stack : t.etx.stack = s.etx.stack) (unwinding : t.etx.unwinding = s.etx.unwinding)
    (heads : HeadsKept s t) (replies : ∀ g ∈ t.replies, headerClass g.header = 2)
    (begun : ∀ e ∈ t.etx.current, 1 ≤ e.sent) : StackNested t where
  classes := stack ▸ h.classes
  sources := stack ▸ h.sources
  segments hu e he := heads e.source e.cls (h.segments (unwinding ▸ hu) e (stack ▸ he))
  replies := replies
  begun := begun

/-- A change of what the stack, the sources and the unit in progress do not speak of. -/
theorem same (h : StackNested s) (he : t.etx = s.etx) (hl : t.lanes = s.lanes) (hr : t.replies = s.replies) :
    StackNested t :=
  h.of_heads (he ▸ rfl) (he ▸ rfl)
    (.of_append ⟨[], by simp [hr]⟩ fun n => ⟨[], by simp [State.lane, hl]⟩) (hr ▸ h.replies) (he ▸ h.begun)

/-- The unit in progress, and what the stack does not speak of, changed in ETX. -/
theorem withEtx (h : StackNested s) (v : Etx) (stack : v.stack = s.etx.stack) (unwinding : v.unwinding = s.etx.unwinding)
    (begun : ∀ e ∈ v.current, 1 ≤ e.sent) : StackNested (s.withEtx v) :=
  h.of_heads stack unwinding (.of_append ⟨[], by simp⟩ fun _ => ⟨[], by simp⟩) h.replies begun

/-- A lane's operation that adds to the tail of its store, if anything. -/
theorem laneFrame (h : StackNested s) {n : Fin 4} (f : LaneFrame n s t)
    (store : ∃ more, (t.lane n).store = (s.lane n).store ++ more) : StackNested t := by
  refine h.of_heads (f.etx ▸ rfl) (f.etx ▸ rfl) (.of_append ⟨[], by simp [f.replies]⟩ fun m => ?_)
    (f.replies ▸ h.replies) (f.etx ▸ h.begun)
  by_cases hm : m = n
  · exact hm ▸ store
  · exact ⟨[], by simp [f.others m hm]⟩

theorem laneFrame_same (h : StackNested s) {n : Fin 4} (f : LaneFrame n s t) (store : (t.lane n).store = (s.lane n).store) :
    StackNested t :=
  h.laneFrame f ⟨[], by simp [store]⟩

theorem setLane (h : StackNested s) (n : Fin 4) (l : Lane) (store : l.store = (s.lane n).store) :
    StackNested (s.setLane n l) :=
  h.laneFrame_same (.setLane n s l) (by rw [State.setLane_lane_same, store])

/-- An empty stack with no reply queued and no unit in progress but one whose tag is sent. -/
theorem of_empty (stack : s.etx.stack = []) (replies : s.replies = []) (begun : ∀ e ∈ s.etx.current, 1 ≤ e.sent) :
    StackNested s where
  classes := stack ▸ .nil
  sources := stack ▸ .nil
  segments _ e he := by simp [stack] at he
  replies g hg := by simp [replies] at hg
  begun := begun

end StackNested

theorem checkOpen_store (n : Fin 4) (syms : List Symbol) (s : State) :
    ((s.checkOpen n syms).lane n).store = (s.lane n).store := by
  rcases State.checkOpen_lane n syms s with ⟨reason, e⟩ | ⟨k, -, e⟩ <;> rw [e] <;> rfl

theorem laneKept_stackNested : LaneKept StackNested where
  quiet n l s q h := h.setLane n l q.store
  endLine n s h := h.laneFrame (.endLineOf n s) (State.endLineOf_lane n s ▸ endLine_store ..)
  closeOpened n s _ h := h.setLane n _ (closingWork_store ..)
  closeDiscard n _ _ h := h.setLane n _ rfl
  abortItem n s hi h := by
    refine h.setLane n _ ?_
    cases hs : (s.lane n).state with
    | idle => exact absurd hs hi
    | opened | discard | closing => simp only [abortItem, hs]; rfl
  queueFinal n s _ h := h.laneFrame (.endClosing n s) (State.endClosing_lane n s ▸ ⟨_, rfl⟩)
  checkOpen n syms s _ h := h.laneFrame_same (.checkOpen n s syms) (checkOpen_store n syms s)

theorem transitKept_stackNested : TransitKept StackNested where
  append _ _ _ h := h.same rfl rfl rfl
  mark _ h := h.same rfl rfl rfl
  overrun _ _ h := h.same rfl rfl rfl
  cut _ h := h.withEtx _ rfl rfl (by simp)

/-- R129: the unit that RESTART PART leaves in progress has sent its tag, as it had before. -/
theorem settleCurrent_begun {current : Option Emitting} (h : ∀ e ∈ current, 1 ≤ e.sent) :
    ∀ e ∈ settleCurrent current, 1 ≤ e.sent := by
  intro e he
  unfold settleCurrent at he
  split at he
  case h_4 => simp at he
  all_goals
    obtain rfl := Option.mem_some.1 he
    exact (h _ rfl :)

theorem StackNested.restart {s : State} (h : StackNested s) (tag : Byte) : StackNested (s.restart tag) where
  classes := h.classes
  sources := h.sources
  segments hu e he := by
    have none : s.etx.stack = [] := by simpa [State.restart, etxRestart] using hu
    have he : e ∈ s.etx.stack := he
    simp [none] at he
  replies _ hg := by cases hg
  begun := settleCurrent_begun h.begun

/-- R118, R120: a reply is queued at the tail, and replies are of class 2. -/
theorem StackNested.answer {s : State} (h : StackNested s) (tag kind : Byte) (code : ReplyCode) (body : List Byte) :
    StackNested (s.answer tag kind code body) := by
  refine h.of_heads rfl rfl (.of_append ⟨_, rfl⟩ fun n => ⟨[], by simp [State.answer]⟩) ?_ h.begun
  intro g hg
  rcases List.mem_append.1 hg with old | new
  · exact h.replies g old
  · rw [List.mem_singleton.1 new]; rfl

theorem requestKept_stackNested : RequestKept StackNested StackNested where
  begins _ _ _ h := h.same rfl rfl rfl
  lrx _ _ h := h.same rfl rfl rfl
  transit := transitKept_stackNested
  lanes := laneKept_stackNested
  events _ h := h.same rfl rfl rfl
  profile _ _ _ _ h := h.same rfl rfl rfl
  tone _ _ _ h := h.same rfl rfl rfl
  timebase _ _ _ _ _ _ h := h.same rfl rfl rfl
  reload _ _ h := h.same rfl rfl rfl
  restart tag _ h := h.restart tag
  answer tag kind code body _ h := h.answer tag kind code body

theorem linkKept_stackNested : LinkKept StackNested StackNested where
  lanes := laneKept_stackNested
  transit := transitKept_stackNested
  requests := requestKept_stackNested
  lrx _ _ h := h.same rfl rfl rfl
  stray _ h := h.same rfl rfl rfl
  tagParity _ h := h.same rfl rfl rfl
  extraData _ h := h.same rfl rfl rfl
  rxOverrun _ h := h.same rfl rfl rfl
  takeRequest _ _ _ _ h := h.same rfl rfl rfl
  requestData _ s h := by
    unfold State.requestData
    split
    · exact h
    · exact h.same rfl rfl rfl

/-! ## The end of a unit -/

namespace StackNested

variable {s : State}

/-- R120: the top entry's resume point or body bytes sent changed. -/
theorem changeTop (h : StackNested s) (f : StackEntry → StackEntry) (hf : ∀ e, (f e).source = e.source ∧ (f e).cls = e.cls) :
    StackNested (s.withEtx { s.etx with stack := Machine.changeTop f s.etx.stack }) := by
  cases hs : s.etx.stack with
  | nil => exact h.withEtx _ hs.symm rfl h.begun
  | cons top rest =>
    have classes := List.pairwise_cons.1 (hs ▸ h.classes)
    have sources := List.pairwise_cons.1 (hs ▸ h.sources)
    refine ⟨.cons ?_ classes.2, .cons ?_ sources.2, fun hu e he => ?_, h.replies, h.begun⟩
    · exact (hf top).2 ▸ classes.1
    · exact (hf top).1 ▸ sources.1
    · have old := fun e he => h.segments hu e (hs ▸ he)
      rcases List.mem_cons.1 he with rfl | below
      · rw [(hf top).1, (hf top).2]
        exact old top (.head _)
      · exact old e (.tail _ below)

/-- A lane's CLOSING wait tested again. -/
theorem retestClosing (h : StackNested s) (n : Fin 4) : StackNested (s.retestClosing n) := by
  unfold State.retestClosing
  split
  case isTrue room => exact linkKept_stackNested.kept.presentLaneAgain n (laneKept_stackNested.queueFinal n s room h)
  case isFalse => exact h

/-- R117: the head of a source that is not on the stack removed. -/
theorem removeHead (h : StackNested s) (src : Source) (off : ∀ e ∈ s.etx.stack, src ≠ e.source) :
    StackNested (s.removeHead src) := by
  cases src with
  | lane n =>
    refine retestClosing (s := s.setLane n _) ⟨h.classes, h.sources, fun hu e he => ?_, h.replies, h.begun⟩ n
    rw [← h.segments hu e he]
    cases hsrc : e.source with
    | lane m =>
      have other : m ≠ n := fun e' => off e he (by rw [hsrc, e'])
      change (((s.setLane n _).lane m).store.head?).map _ = _
      rw [State.setLane_lane_ne _ _ _ other]
      rfl
    | reply | started => rfl
  | reply =>
    refine linkKept_stackNested.kept.presentRequestAgain
      ⟨h.classes, h.sources, fun hu e he => ?_, fun g hg => h.replies g (List.mem_of_mem_tail hg), h.begun⟩
    rw [← h.segments hu e he]
    cases hsrc : e.source with
    | reply => exact absurd hsrc.symm (off e he)
    | lane | started => rfl
  | started cause tag => exact h

/-- R117: the top entry popped. -/
theorem popTop (h : StackNested s) (release : Bool) : StackNested (s.popTop release) := by
  unfold State.popTop
  split
  · exact h
  · rename_i top rest hs
    have classes := List.pairwise_cons.1 (hs ▸ h.classes)
    have sources := List.pairwise_cons.1 (hs ▸ h.sources)
    have popped : StackNested (s.withEtx { s.etx with stack := rest, unwinding := s.etx.unwinding && rest != [] }) := by
      refine ⟨classes.2, sources.2, fun hu e he => ?_, h.replies, h.begun⟩
      have below : e ∈ rest := he
      have settled : s.etx.unwinding = false := by
        have some : (rest != []) = true := by simpa using List.ne_nil_of_mem below
        have hu : (s.etx.unwinding && rest != []) = false := hu
        rwa [some, Bool.and_true] at hu
      exact h.segments settled e (hs ▸ .tail _ below)
    dsimp only
    split
    · exact popped.removeHead top.source sources.1
    · exact popped

theorem endUnit (h : StackNested s) (what : Sending) : StackNested (s.endUnit what) := by
  have ended := h.withEtx { s.etx with current := none, inFlight := false } rfl rfl (by simp)
  unfold State.endUnit
  dsimp only
  split
  · exact ended.changeTop _ fun _ => ⟨rfl, rfl⟩
  · exact ended.changeTop _ fun _ => ⟨rfl, rfl⟩
  · exact ended.popTop _
  · exact ended.popTop _
  · exact ended
  · exact ended

theorem countBody (h : StackNested s) (what : Sending) (sent : Nat) : StackNested (s.countBody what sent) := by
  unfold State.countBody
  split
  · split
    · exact h.changeTop _ fun _ => ⟨rfl, rfl⟩
    · exact h
  · exact h

end StackNested

/-! ## The unit in progress -/

/-- The state with no unit in progress. -/
def State.betweenUnits (s : State) : State := s.withEtx { s.etx with current := none }

theorem StackNested.betweenUnits {s : State} (h : StackNested s) : StackNested s.betweenUnits :=
  h.withEtx _ rfl rfl (by simp)

/-- Once a symbol of its unit is sent, the stack is as it was between units. -/
theorem StackNested.sending {s : State} (h : StackNested s.betweenUnits) (what : Sending) (sent : Nat) :
    StackNested (s.withEtx { s.etx with current := some ⟨what, sent + 1⟩, inFlight := false }) :=
  h.withEtx _ rfl rfl (by simp)

theorem sendTransit_stackNested {s : State} (h : StackNested s.betweenUnits) (len sent : Nat) (hand : s.transit ≠ []) :
    StackNested (s.sendTransit len sent) := by
  unfold State.sendTransit
  split
  · contradiction
  · rename_i t rest _
    have left := (show StackNested ((s.withTransit rest).sendSymbol t.sym).betweenUnits from
      h.same rfl rfl rfl).sending (.transit len) sent
    dsimp only
    split
    · exact left.endUnit _
    · exact left

theorem sendOwn_stackNested {s : State} (h : StackNested s.betweenUnits) (what : Sending) (sent : Nat)
    (hand : sent < (ownSymbols what).length) : StackNested (s.sendOwn what sent) := by
  unfold State.sendOwn
  split
  case h_1 missing => exact absurd (List.getElem?_eq_none_iff.1 missing) (Nat.not_le.2 hand)
  case h_2 sym _ =>
    have left := ((show StackNested (s.sendSymbol sym).betweenUnits from
      h.same rfl rfl rfl).sending what sent).countBody what sent
    dsimp only
    split
    · exact left.endUnit _
    · exact left

theorem StackNested.sendNext {s : State} (h : StackNested s) : StackNested s.sendNext := by
  unfold State.sendNext
  split
  · exact h
  · rename_i len sent _
    cases ht : s.transit with
    | nil => simpa only [State.sendTransit, ht] using h
    | cons t rest => exact sendTransit_stackNested h.betweenUnits len sent (by simp [ht])
  · rename_i what sent _ _
    by_cases hand : sent < (ownSymbols what).length
    · exact sendOwn_stackNested h.betweenUnits what sent hand
    · simpa only [State.sendOwn, List.getElem?_eq_none (Nat.not_lt.1 hand)] using h

/-! ## The beginning of a unit -/

/-- A unit is at hand whose tag is still to be sent, the stack nested for the time after it. -/
structure UnitReady (s : State) : Prop where
  nested : StackNested s.betweenUnits
  unit : (∃ len, s.etx.current = some ⟨.transit len, 0⟩ ∧ s.transit ≠ []) ∨
    ∃ what, s.etx.current = some ⟨what, 0⟩ ∧ ownSymbols what ≠ []

theorem UnitReady.sendNext {s : State} (r : UnitReady s) : StackNested s.sendNext := by
  rcases r.unit with ⟨len, current, hand⟩ | ⟨what, current, symbols⟩
  · simpa only [State.sendNext, current] using sendTransit_stackNested r.nested len 0 hand
  · have own := sendOwn_stackNested r.nested what 0 (List.length_pos_of_ne_nil symbols)
    unfold State.sendNext
    split
    · rename_i e; simp [current] at e
    · rename_i e
      rw [current] at e
      cases e
      simp [ownSymbols] at symbols
    · rename_i e
      rw [current] at e
      cases e
      exact own

theorem unitSymbols_ne_nil (kind : BitVec 3) (address : BitVec 5) (data : List Byte) :
    unitSymbols kind address data ≠ [] := by
  simp [unitSymbols]

/-- R121, R122: a candidate that ETX may choose. -/
structure Candidate (s : State) (floor : Nat) (src : Source) (cls : Nat) : Prop where
  above : floor ≤ cls
  off : ∀ e ∈ s.etx.stack, src ≠ e.source
  head : s.headClassOf src = some cls

theorem onStack_eq_false {e : Etx} {src : Source} (h : onStack e src = false) : ∀ entry ∈ e.stack, src ≠ entry.source := by
  intro entry he same
  have on : onStack e src = true := List.any_eq_true.2 ⟨entry, he, beq_iff_eq.2 same.symm⟩
  simp [h] at on

theorem laneOffers_candidate {s : State} {n : Fin 4} {floor cls : Nat} (h : s.laneOffers n = some cls)
    (above : floor ≤ cls) : Candidate s floor (.lane n) cls := by
  unfold State.laneOffers at h
  split at h
  · cases h
  · rename_i off
    exact ⟨above, onStack_eq_false (by simpa using off), h⟩

theorem pickLane_offers {s : State} {ptr n : Fin 4} {cls : Nat} (h : s.pickLane ptr cls = some n) :
    s.laneOffers n = some cls := by
  simpa using List.find?_some h

theorem replyOffers_candidate {s : State} {floor : Nat} (replies : ∀ g ∈ s.replies, headerClass g.header = 2)
    (h : s.replyOffers = true) (above : floor ≤ 2) : Candidate s floor .reply 2 := by
  simp only [State.replyOffers, Bool.and_eq_true, bne_iff_ne, Bool.not_eq_true'] at h
  refine ⟨above, onStack_eq_false h.2, ?_⟩
  cases hr : s.replies with
  | nil => exact absurd hr h.1
  | cons g rest => simp [State.headClassOf, State.segmentOf, hr, replies g (hr ▸ .head _)]

/-- R122: ETX chooses only candidates of at least the class it asks for. -/
theorem choose_candidate {s : State} {floor : Nat} {c : Source × Nat} (replies : ∀ g ∈ s.replies, headerClass g.header = 2)
    (h : s.choose floor = some c) : Candidate s floor c.1 c.2 := by
  unfold State.choose at h
  split at h
  case isTrue reply =>
    cases h
    rw [Bool.and_eq_true, decide_eq_true_eq] at reply
    exact replyOffers_candidate replies reply.1 reply.2
  case isFalse =>
    split at h
    case h_1 n one =>
      cases h
      split at one
      · exact laneOffers_candidate (pickLane_offers one) ‹_›
      · cases one
    case h_2 =>
      obtain ⟨n, zero, rfl⟩ := Option.map_eq_some_iff.1 h
      split at zero
      · exact laneOffers_candidate (pickLane_offers zero) (Nat.le_of_eq ‹_›)
      · cases zero

namespace StackNested

variable {s : State} (h : StackNested s)
include h

/-- R122: a candidate above the whole stack pushed on it. -/
theorem pushSource {src : Source} {cls floor : Nat} (c : Candidate s floor src cls)
    (above : ∀ e ∈ s.etx.stack, e.cls < cls) : UnitReady (s.pushSource src cls) where
  nested := by
    refine ⟨.cons above h.classes, .cons c.off h.sources, fun hu e he => ?_, h.replies, by simp [State.betweenUnits]⟩
    rcases List.mem_cons.1 he with rfl | below
    · exact c.head
    · exact h.segments hu e below
  unit := .inr ⟨_, rfl, unitSymbols_ne_nil _ _ _⟩

theorem setPointer (src : Source) (cls : Nat) : StackNested (s.withEtx (Machine.setPointer s.etx src cls)) := by
  unfold Machine.setPointer
  split <;> exact h.withEtx _ rfl rfl h.begun

theorem pushChosen {c : Source × Nat} {floor : Nat} (chosen : s.choose floor = some c)
    (above : ∀ e ∈ s.etx.stack, e.cls < c.2) :
    UnitReady ((s.withEtx (Machine.setPointer s.etx c.1 c.2)).pushSource c.1 c.2) := by
  have cand := choose_candidate h.replies chosen
  have stack : (Machine.setPointer s.etx c.1 c.2).stack = s.etx.stack := by
    unfold Machine.setPointer
    split <;> rfl
  exact (h.setPointer c.1 c.2).pushSource (floor := floor)
    ⟨cand.above, fun e he => cand.off e (stack ▸ he), cand.head⟩ fun e he => above e (stack ▸ he)

theorem continueTop (top : StackEntry) : UnitReady (s.continueTop top) where
  nested := h.withEtx _ rfl rfl (by simp)
  unit := by
    refine .inr ⟨_, rfl, ?_⟩
    cases top.resume <;> exact unitSymbols_ne_nil _ _ _

theorem beginAbandoned (top : StackEntry) : UnitReady (s.beginAbandoned top) where
  nested := h.withEtx _ rfl rfl (by simp)
  unit := .inr ⟨_, rfl, unitSymbols_ne_nil _ _ _⟩

theorem beginFill : UnitReady s.beginFill where
  nested := h.withEtx _ rfl rfl (by simp)
  unit := .inr ⟨_, rfl, unitSymbols_ne_nil _ _ _⟩

/-- R123: the classes below the top entry's are below a class above it too. -/
theorem stack_lt {top : StackEntry} {rest : List StackEntry} (hs : s.etx.stack = top :: rest) {cls : Nat}
    (above : top.cls < cls) : ∀ e ∈ s.etx.stack, e.cls < cls := by
  have classes := List.pairwise_cons.1 (hs ▸ h.classes)
  intro e he
  rcases List.mem_cons.1 (hs ▸ he) with rfl | below
  · exact above
  · exact (classes.1 e below).trans above

theorem ownUnit {own : State} (e : s.ownUnit = some own) : UnitReady own := by
  unfold State.ownUnit at e
  split at e
  case h_1 empty =>
    obtain ⟨c, chosen, rfl⟩ := Option.map_eq_some_iff.1 e
    exact h.pushChosen chosen (by simp [empty])
  case h_2 top rest hs =>
    split at e
    case h_1 c chosen =>
      cases e
      exact h.pushChosen chosen (h.stack_lt hs (choose_candidate h.replies chosen).above)
    case h_2 =>
      cases e
      exact h.continueTop top

theorem transitUnit {unit : State} (e : s.transitUnit = some unit) : UnitReady unit := by
  unfold State.transitUnit at e
  split at e
  · rename_i ht
    cases e
    exact ⟨h.withEtx _ rfl rfl (by simp), .inl ⟨_, rfl, by simp [State.beginTransit, ht]⟩⟩
  · cases e

theorem alternate : UnitReady s.alternate := by
  unfold State.alternate
  split
  case h_1 own transit ho ht =>
    split
    · exact h.transitUnit ht
    · exact h.ownUnit ho
  case h_2 own ho _ => exact h.ownUnit ho
  case h_3 transit _ ht => exact h.transitUnit ht
  case h_4 => exact h.beginFill

theorem beginUnit : UnitReady s.beginUnit := by
  unfold State.beginUnit
  split
  · exact h.beginAbandoned _
  · rename_i cause tag empty _
    exact (h.withEtx { s.etx with started := none } rfl rfl h.begun).pushSource (floor := 0)
      ⟨by simp, by simp [empty], rfl⟩ (by simp [empty])
  · split
    · exact h.continueTop _
    · exact h.alternate
  · exact h.alternate

theorem emitUnitBegin : StackNested s.emitUnitBegin := by
  unfold State.emitUnitBegin
  split
  · exact h.beginUnit.sendNext
  · exact h

end StackNested

theorem commandKept_stackNested : CommandKept StackNested StackNested where
  toLinkKept := linkKept_stackNested
  pending _ _ h := h.same rfl rfl rfl
  blocksReset _ _ _ := .of_empty rfl rfl (by simp [State.blocksReset])
  resetLine _ _ h := h.same rfl rfl rfl
  startUp _ _ h := h.same rfl rfl rfl
  time _ _ _ h := h.same rfl rfl rfl
  bus _ _ h := h.same rfl rfl rfl
  dstop level _ _ h := (h.same (t := State.withDstop _ level) rfl rfl rfl).withEtx _ rfl rfl h.begun
  emitUnitBegin _ h := h.emitUnitBegin
  sendNext _ h := h.sendNext
  bootIdle _ h := h.same rfl rfl rfl
  bootMore _ _ _ _ _ h := h.same rfl rfl rfl
  bootApply _ h := h.same rfl rfl rfl
  image _ _ _ _ _ h := h.same rfl rfl rfl
  started _ h := (h.same (t := State.withStartUp _ false) rfl rfl rfl).withEtx _ rfl rfl h.begun
  reloadEnds _ _ _ h := h.same rfl rfl rfl

/-- Settles O48: what is queued goes to a source's tail, so an entry keeps its segment at its source's head; a source is
pushed above every entry's class and while it is not on the stack, and its head is removed as its entry is popped. -/
theorem stepKeepsStackNested : Obligations.StepKeepsStackNested :=
  fun _ _ h he => commandKept_stackNested.stepKept.step h he

end Sys2Proof.Machine
end

section
/-! SUPPORT. What a lane, the queues, the counters and the Time Base hold stays within its places in every step. -/

namespace Sys2Proof.Machine

/-! ## A lane's bounds -/

/-- R62, R93: an inactive band store and a closed group context hold nothing. -/
structure ClosedEmpty (l : Lane) : Prop where
  rows : l.band.active = false → l.band.rows = []
  group : l.coder.groupOpen = false → l.coder.group = []

theorem LaneBounded.closedEmpty {l : Lane} (h : LaneBounded l) : ClosedEmpty l := ⟨h.noRows, h.noGroup⟩

/-- R62, R63: the band that a row fills is closed, and so is empty again. -/
theorem takeBRow_rows {n : Fin 4} {i : Nat} {row : List Byte} {l : Lane} (active : l.band.active = true)
    (room : l.band.rows.length < l.snap.h) : (takeBRow n i row l).1.band.rows.length < l.snap.h := by
  unfold takeBRow
  rw [if_pos active]
  dsimp only
  split
  case isTrue full => simp [closeBand, bandAfterClose]; omega
  case isFalse more => simp only [bandAddRow, List.length_append, List.length_singleton] at more ⊢; omega

theorem takeBRow_active (n : Fin 4) (i : Nat) (row : List Byte) (l : Lane) :
    (takeBRow n i row l).1.band.active = l.band.active := by
  unfold takeBRow
  split
  · dsimp only
    split <;> rfl
  · rfl

theorem takeBRow_inactive {n : Fin 4} {i : Nat} {row : List Byte} {l : Lane} (off : l.band.active = false) :
    (takeBRow n i row l).1 = l := by
  simp [takeBRow, off]

/-- R86: a B row changes the Row Coder in its B context alone. -/
theorem takeBRow_coder (n : Fin 4) (i : Nat) (row : List Byte) (l : Lane) :
    ∃ x, (takeBRow n i row l).1.coder = { l.coder with bContext := x } := by
  unfold takeBRow
  split
  · dsimp only
    split
    · exact ⟨none, rfl⟩
    · exact ⟨_, rfl⟩
  · exact ⟨_, rfl⟩

theorem takeGRow_closed {tone : Vector Byte 256} {n : Fin 4} {i : Nat} {row : List Byte} {l : Lane}
    (closed : l.coder.groupOpen = false) : (takeGRow tone n i row l).1 = l := by
  simp [takeGRow, closed]

theorem takeGRow_band (tone : Vector Byte 256) (n : Fin 4) (i : Nat) (row : List Byte) (l : Lane) :
    (takeGRow tone n i row l).1.band = l.band := by
  unfold takeGRow
  split
  · dsimp only
    split <;> rfl
  · rfl

theorem takeGRow_finals (tone : Vector Byte 256) (n : Fin 4) (i : Nat) (row : List Byte) (l : Lane) :
    (takeGRow tone n i row l).1.coder.finalB = l.coder.finalB ∧ (takeGRow tone n i row l).1.coder.finalG = l.coder.finalG ∧
      (takeGRow tone n i row l).1.coder.groupOpen = l.coder.groupOpen := by
  unfold takeGRow
  split
  · dsimp only
    split <;> exact ⟨rfl, rfl, rfl⟩
  · exact ⟨rfl, rfl, rfl⟩

/-- R93: the fourth row of a group builds its segment, and empties the group. -/
theorem takeGRow_group {tone : Vector Byte 256} {n : Fin 4} {i : Nat} {row : List Byte} {l : Lane}
    (room : l.coder.group.length ≤ 3) : (takeGRow tone n i row l).1.coder.group.length ≤ 3 := by
  unfold takeGRow
  split
  · dsimp only
    split
    case isTrue => simp [groupEmptied]
    case isFalse more => simp only [groupAddRow, List.length_append, List.length_singleton] at more ⊢; omega
  · exact room

theorem RowsKept.closedEmpty : RowsKept ClosedEmpty where
  channels _ _ _ h := ⟨h.rows, h.group⟩
  takeB n i row l h := by
    obtain ⟨x, e⟩ := takeBRow_coder n i row l
    refine ⟨fun off => ?_, by rw [e]; exact h.group⟩
    rw [takeBRow_active] at off
    rw [takeBRow_inactive off]
    exact h.rows off
  takeG tone n i row l h := by
    refine ⟨by rw [takeGRow_band]; exact h.rows, fun closed => ?_⟩
    rw [(takeGRow_finals tone n i row l).2.2] at closed
    rw [takeGRow_closed closed]
    exact h.group closed

theorem RowsKept.laneBounded : RowsKept LaneBounded where
  channels _ _ _ h := ⟨h.store, h.lines, h.timer, h.band, h.noRows, h.group, h.noGroup, h.finals⟩
  takeB n i row l h := by
    have frame := (RowsKept.itemFrame l).takeB n i row l (.refl l)
    have closed := RowsKept.closedEmpty.takeB n i row l h.closedEmpty
    obtain ⟨x, e⟩ := takeBRow_coder n i row l
    refine ⟨?_, frame.lines ▸ h.lines, frame.timer ▸ h.timer, fun active => ?_, closed.rows, by rw [e]; exact h.group,
      closed.group, by rw [e, frame.state]; exact h.finals⟩
    · rw [(RowsKept.store l.store).takeB n i row l rfl]; exact h.store
    · rw [takeBRow_active] at active
      rw [frame.state, frame.snap]
      exact ⟨(h.band active).1, takeBRow_rows active (h.band active).2⟩
  takeG tone n i row l h := by
    have frame := (RowsKept.itemFrame l).takeG tone n i row l (.refl l)
    have closed := RowsKept.closedEmpty.takeG tone n i row l h.closedEmpty
    obtain ⟨finalB, finalG, -⟩ := takeGRow_finals tone n i row l
    refine ⟨?_, frame.lines ▸ h.lines, frame.timer ▸ h.timer, ?_, closed.rows, takeGRow_group h.group, closed.group,
      by rw [finalB, finalG, frame.state]; exact h.finals⟩
    · rw [(RowsKept.store l.store).takeG tone n i row l rfl]; exact h.store
    · rw [takeGRow_band, frame.state, frame.snap]; exact h.band

/-- R18, R93: the closing work leaves neither an active band store nor an open group context. -/
theorem closingWork_closed (tone : Vector Byte 256) (n : Fin 4) {l : Lane} (h : ClosedEmpty l) :
    (closingWork tone n l).band.active = false ∧ (closingWork tone n l).band.rows = [] ∧
      (closingWork tone n l).coder.group = [] := by
  have finals : ∀ (l : Lane) x y, ClosedEmpty l → ClosedEmpty { l with coder := { l.coder with finalB := x, finalG := y } } :=
    fun _ _ _ h => ⟨h.rows, h.group⟩
  have rows : ClosedEmpty (finishG tone n (finishB n { l with state := .closing })) :=
    RowsKept.closedEmpty.finishG tone n finals (RowsKept.closedEmpty.finishB n finals ⟨h.rows, h.group⟩)
  have band : ∀ m, ClosedEmpty m → (finishBand n m).band.active = false ∧ (finishBand n m).band.rows = [] ∧
      ((finishBand n m).coder.groupOpen = false → (finishBand n m).coder.group = []) := by
    intro m hm
    unfold finishBand
    split
    case isTrue => exact ⟨rfl, rfl, hm.group⟩
    case isFalse empty =>
      refine ⟨rfl, ?_, hm.group⟩
      cases active : m.band.active with
      | false => exact hm.rows active
      | true => simpa [active] using empty
  have group : ∀ m : Lane, (m.coder.groupOpen = false → m.coder.group = []) →
      (finishGroup n m).band = m.band ∧ (finishGroup n m).coder.group = [] := by
    intro m hm
    unfold finishGroup
    split
    case isTrue => exact ⟨rfl, rfl⟩
    case isFalse empty =>
      refine ⟨rfl, ?_⟩
      cases isOpen : m.coder.groupOpen with
      | false => exact hm isOpen
      | true => simpa [isOpen] using empty
  obtain ⟨inactive, noRows, noGroup⟩ := band _ rows
  obtain ⟨sameBand, empty⟩ := group _ noGroup
  change (finishGroup n _).band.active = false ∧ (finishGroup n _).band.rows = [] ∧ (finishGroup n _).coder.group = []
  exact ⟨sameBand ▸ inactive, sameBand ▸ noRows, empty⟩

theorem poolGrant_pos {free w h k : Nat} (e : poolGrant free w h = some k) : 0 < k := by
  have mem := (List.mem_filter.1 (List.mem_of_find?_eq_some e)).1
  have heights : ∀ k ∈ [32, 16, 8, 4], 0 < k := by decide
  exact heights k mem

theorem itemGrant_pos {r : Record} {wIn free k : Nat} (e : itemGrant r wIn free = some k) : 0 < k := by
  unfold itemGrant at e
  split at e
  · exact poolGrant_pos e
  · cases e

namespace LaneBounded

variable {l : Lane}

theorem default : LaneBounded {} :=
  ⟨by simp, by simp, by simp, by simp, by simp, by simp, by simp, by simp⟩

/-- A lane that is not OPEN, with nothing active and nothing held. -/
theorem of_closed (store : (l.store.map segSize).sum ≤ 32768) (lines : l.lineCount ≤ 4096) (timer : l.stallTimer ≤ 255)
    (state : l.state ≠ .opened) (inactive : l.band.active = false) (rows : l.band.rows = []) (group : l.coder.group = []) :
    LaneBounded l :=
  ⟨store, lines, timer, by simp [inactive], fun _ => rows, by simp [group], fun _ => group, fun e => absurd e state⟩

/-- A lane that is not OPEN holds no rows. -/
theorem inactive (h : LaneBounded l) (state : l.state ≠ .opened) : l.band.active = false := by
  cases active : l.band.active with
  | false => rfl
  | true => exact absurd (h.band active).1 state

theorem quiet (h : LaneBounded l) {l' : Lane} (q : QuietChange l l') : LaneBounded l' where
  store := q.store ▸ h.store
  lines := q.lines h.lines
  timer := q.timer h.timer
  band := by rw [q.band, q.state, q.snap]; exact h.band
  noRows := q.band ▸ h.noRows
  group := q.coder ▸ h.group
  noGroup := q.coder ▸ h.noGroup
  finals := by rw [q.state, q.coder]; exact h.finals

/-- R94, R115: a segment is queued only into free space. -/
theorem offer (h : LaneBounded l) (g : Segment) : LaneBounded (Machine.offer g l) := by
  unfold Machine.offer
  split
  case isTrue room =>
    refine ⟨?_, h.lines, h.timer, h.band, h.noRows, h.group, h.noGroup, h.finals⟩
    have held := h.store
    simp only [storeFree, storeUsed, storeBytes] at room
    simp only [List.map_append, List.sum_append, List.map_singleton, List.sum_singleton]
    omega
  case isFalse => exact ⟨h.store, h.lines, h.timer, h.band, h.noRows, h.group, h.noGroup, h.finals⟩

theorem endLine (h : LaneBounded l) (tone : Vector Byte 256) (gFirst : Bool) (n : Fin 4) :
    LaneBounded (Machine.endLine tone gFirst n l) :=
  RowsKept.laneBounded.endLine tone gFirst n (fun g _ hl => hl.offer g) h

theorem closingWork (h : LaneBounded l) (tone : Vector Byte 256) (n : Fin 4) :
    LaneBounded (Machine.closingWork tone n l) := by
  have frame := ItemFrame.closingWork tone n l
  obtain ⟨inactive, rows, group⟩ := closingWork_closed tone n h.closedEmpty
  refine of_closed ?_ (frame.lines ▸ h.lines) (frame.timer ▸ h.timer) ?_ inactive rows group
  · rw [closingWork_store]; exact h.store
  · rw [frame.state]; simp

theorem closeDiscard (h : LaneBounded l) (state : l.state = .discard) (n : Fin 4) :
    LaneBounded (compose n { l with state := .closing }) where
  store := h.store
  lines := h.lines
  timer := h.timer
  band active := by
    have off := h.inactive (by simp [state])
    exact absurd (off.symm.trans active) (by simp)
  noRows := h.noRows
  group := h.group
  noGroup := h.noGroup
  finals e := by cases e

theorem abortItem (h : LaneBounded l) (n : Fin 4) : LaneBounded (Machine.abortItem n l) := by
  unfold Machine.abortItem
  split
  case h_1 => exact of_closed h.store h.lines h.timer (by simp [abortOpen, compose]) rfl rfl rfl
  case h_2 state =>
    exact (closeDiscard (l := { l with flags := { l.flags with aborted := true } })
      (h.quiet (.flags l _)) state n :)
  case h_3 state =>
    have off := h.inactive (by simp [state])
    refine ⟨h.store, h.lines, h.timer, fun active => absurd (off.symm.trans active) (by simp), h.noRows, h.group, h.noGroup,
      fun e => ?_⟩
    exact absurd (state.symm.trans e) (by simp)
  case h_4 => exact h

/-- R19, R115: the final segments are queued only into free space. -/
theorem queueFinal (h : LaneBounded l) (room : canQueue l = true) : LaneBounded (Machine.queueFinal l) := by
  simp only [canQueue, Bool.and_eq_true, beq_iff_eq, decide_eq_true_eq] at room
  obtain ⟨⟨state, -⟩, room⟩ := room
  have off := h.inactive (by simp [state])
  refine ⟨?_, h.lines, h.timer, fun active => absurd (off.symm.trans active) (by simp), h.noRows, h.group, h.noGroup,
    fun e => by cases e⟩
  have held := h.store
  simp only [storeFree, storeUsed, storeBytes] at room
  change ((l.store ++ finalSegments l).map segSize).sum ≤ 32768
  rw [List.map_append, List.sum_append]
  omega

theorem discardItem (h : LaneBounded l) (header : ItemHeader) (reason : Reason) :
    LaneBounded (Machine.discardItem header reason l) :=
  of_closed h.store (by simp [Machine.discardItem, clearItem]) (by simp [Machine.discardItem, clearItem])
    (by simp [Machine.discardItem]) rfl rfl rfl

/-- R4, R61, R84: an item opens with an empty band store, if any, of a height that was granted, and an empty group. -/
theorem openItem (h : LaneBounded l) (header : ItemHeader) (r : Record) (free : Nat) :
    LaneBounded (Machine.openItem header r free l) := by
  have noRows : (Machine.openItem header r free l).band.rows = [] := by
    simp only [Machine.openItem]
    split <;> rfl
  have coder : (Machine.openItem header r free l).coder.group = [] ∧
      (Machine.openItem header r free l).coder.finalB = none ∧ (Machine.openItem header r free l).coder.finalG = none := by
    simp only [Machine.openItem]
    split <;> exact ⟨rfl, rfl, rfl⟩
  obtain ⟨group, finals⟩ := coder
  refine ⟨h.store, by simp [Machine.openItem, clearItem], by simp [Machine.openItem, clearItem], fun active => ⟨rfl, ?_⟩,
    fun _ => noRows, by simp [group], fun _ => group, fun _ => finals⟩
  rw [noRows, List.length_nil]
  simp only [Machine.openItem] at active ⊢
  cases grant : itemGrant r header.wIn.toNat free with
  | none => simp [grant, clearItem, bandCleared, bandIdle] at active
  | some k => exact itemGrant_pos grant

end LaneBounded

/-! ## The part's bounds, but for the link's -/

/-- R153, R148: the counters stay within their ranges, and the replies owed are at least those of the requests in progress
and of the boot load, and `k` more. -/
structure CountsBounded (k : Nat) (r : RequestUnit) : Prop where
  owed   : r.inProgress.isSome.toNat + r.bootRunning.isSome.toNat + k ≤ r.owed
  errors : r.stray ≤ 65535 ∧ r.tagParity ≤ 65535 ∧ r.extraData ≤ 65535 ∧ r.rxOverrun ≤ 65535 ∧ r.txOverrun ≤ 65535
  items  : ∀ n : Fin 4, r.itemsCompleted[n] < 4294967296

/-- `WithinBounds` without the link's own bounds, with `k` replies owed to requests that are no longer in progress. -/
structure PartBounded (k : Nat) (s : State) : Prop where
  lanes   : ∀ n, LaneBounded (s.lane n)
  transit : s.transit.length ≤ 4096
  replies : s.replies.length + s.req.owed ≤ 8
  pulses  : s.time.pulses < max 1 s.tables.divisor
  counts  : CountsBounded k s.req

theorem withinBounds_iff {s : State} : WithinBounds s ↔ LinkBounded s ∧ PartBounded 0 s :=
  ⟨fun h => ⟨h.link, h.lanes, h.transit, h.replies, h.pulses, h.owed, h.errors, h.items⟩,
    fun ⟨link, h⟩ => ⟨link, h.lanes, h.transit, h.replies, h.pulses, h.counts.owed, h.counts.errors, h.counts.items⟩⟩

theorem raiseCounter_le (k n : Nat) : raiseCounter k n ≤ 65535 := Nat.min_le_left _ _

theorem CountsBounded.reset (cause : ResetCause) : CountsBounded 0 { lastReset := cause } := by
  constructor <;> simp

/-- A reset of the Request Unit leaves no reply owed. -/
theorem PartBounded.of_reset {s : State} {cause : ResetCause} (hl : s.lanes = Vector.replicate 4 {}) (ht : s.transit = [])
    (hr : s.replies = []) (hp : s.time.pulses = 0) (hq : s.req = { lastReset := cause }) : PartBounded 0 s where
  lanes n := by
    rw [State.lane, hl, Fin.getElem_fin, Vector.getElem_replicate]
    exact .default
  transit := by simp [ht]
  replies := by simp [hr, hq]
  pulses := by rw [hp]; exact lt_max_of_lt_left Nat.one_pos
  counts := hq ▸ .reset cause

namespace PartBounded

variable {k : Nat} {s t : State}

/-- A change of what has no bounds. -/
theorem same {j : Nat} (h : PartBounded k s) (hl : t.lanes = s.lanes) (ht : t.transit = s.transit) (hr : t.replies = s.replies)
    (hp : t.time = s.time) (hd : t.tables.divisor = s.tables.divisor) (hq : CountsBounded j t.req)
    (ho : t.req.owed = s.req.owed) : PartBounded j t where
  lanes n := by rw [show t.lane n = s.lane n from congrArg (·[n]) hl]; exact h.lanes n
  transit := ht ▸ h.transit
  replies := by rw [hr, ho]; exact h.replies
  pulses := by rw [hp, hd]; exact h.pulses
  counts := hq

theorem withTransit (h : PartBounded k s) {v : List TransitSymbol} (hv : v.length ≤ 4096) :
    PartBounded k (s.withTransit v) :=
  ⟨h.lanes, hv, h.replies, h.pulses, h.counts⟩

theorem setLane (h : PartBounded k s) (n : Fin 4) {l : Lane} (hl : LaneBounded l) : PartBounded k (s.setLane n l) := by
  refine ⟨fun m => ?_, h.transit, h.replies, h.pulses, h.counts⟩
  rw [State.setLane_lane]
  split
  · exact hl
  · exact h.lanes m

/-- An operation of lane `n` that leaves the lane and the items completed in bounds. -/
theorem laneFrame (h : PartBounded k s) {n : Fin 4} (f : LaneFrame n s t) (hl : LaneBounded (t.lane n))
    (items : ∀ m : Fin 4, t.req.itemsCompleted[m] < 4294967296) : PartBounded k t where
  lanes m := by
    by_cases hm : m = n
    · exact hm ▸ hl
    · exact f.others m hm ▸ h.lanes m
  transit := f.transit ▸ h.transit
  replies := by rw [f.replies, f.req]; exact h.replies
  pulses := by rw [f.time, f.tables]; exact h.pulses
  counts := ⟨by rw [f.req]; exact h.counts.owed, by rw [f.req]; exact h.counts.errors, items⟩

end PartBounded

theorem endLineOf_itemsCompleted (n : Fin 4) (s : State) :
    (s.endLineOf n).req.itemsCompleted = s.req.itemsCompleted := by
  unfold State.endLineOf State.noteLost
  dsimp only
  split <;> rfl

theorem checkOpen_itemsCompleted (n : Fin 4) (syms : List Symbol) (s : State) :
    (s.checkOpen n syms).req.itemsCompleted = s.req.itemsCompleted := by
  unfold State.checkOpen
  dsimp only
  split
  · rfl
  · split
    · unfold State.raiseTone
      split <;> rfl
    · rfl

/-- R153: the items-completed counter wraps. -/
theorem endClosing_itemsCompleted (n : Fin 4) {s : State} (h : ∀ m : Fin 4, s.req.itemsCompleted[m] < 4294967296)
    (m : Fin 4) : (s.endClosing n).req.itemsCompleted[m] < 4294967296 := by
  have e := State.setLane_endClosing s n (s.lane n)
  rw [State.setLane_self] at e
  rw [e]
  change (Vector.set _ _ _)[m] < _
  rw [getElem_set_fin]
  split
  · exact Nat.mod_lt _ (by decide)
  · exact h m

theorem laneKept_partBounded (k : Nat) : LaneKept (PartBounded k) where
  quiet n l s q h := h.setLane n ((h.lanes n).quiet q)
  endLine n s h := h.laneFrame (.endLineOf n s) (State.endLineOf_lane n s ▸ (h.lanes n).endLine ..)
    (endLineOf_itemsCompleted n s ▸ h.counts.items)
  closeOpened n s _ h := h.setLane n ((h.lanes n).closingWork _ n)
  closeDiscard n s state h := h.setLane n ((h.lanes n).closeDiscard state n)
  abortItem n _ _ h := h.setLane n ((h.lanes n).abortItem n)
  queueFinal n s room h := h.laneFrame (.endClosing n s) (State.endClosing_lane n s ▸ (h.lanes n).queueFinal room)
    (endClosing_itemsCompleted n h.counts.items)
  checkOpen n syms s _ h := by
    refine h.laneFrame (.checkOpen n s syms) ?_ (checkOpen_itemsCompleted n syms s ▸ h.counts.items)
    rcases State.checkOpen_lane n syms s with ⟨reason, e⟩ | ⟨j, -, e⟩
    · exact e ▸ (h.lanes n).discardItem _ _
    · exact e ▸ (h.lanes n).openItem _ _ _

theorem markLast_length (ts : List TransitSymbol) : (markLast ts).length = ts.length := by
  fun_induction markLast ts with
  | case1 => rfl
  | case2 => rfl
  | case3 t rest _ ih => simp [ih]

theorem transitKept_partBounded (k : Nat) : TransitKept (PartBounded k) where
  append ts s room h := h.withTransit (by simpa using room)
  mark s h := h.withTransit (by rw [markLast_length]; exact h.transit)
  overrun j s h := by
    obtain ⟨stray, tag, extra, rx, -⟩ := h.counts.errors
    exact h.same rfl rfl rfl rfl rfl ⟨h.counts.owed, ⟨stray, tag, extra, rx, raiseCounter_le _ _⟩, h.counts.items⟩ rfl
  cut _ h := h.same rfl rfl rfl rfl rfl h.counts rfl

theorem requestKept_partBounded : RequestKept (PartBounded 0) (PartBounded 1) where
  begins q s running h := by
    have owed := h.counts.owed
    rw [running] at owed
    refine h.same rfl rfl rfl rfl rfl ⟨?_, h.counts.errors, h.counts.items⟩ rfl
    simp only [Option.isSome_some, Bool.toNat_true, State.withReq_req, Option.isSome_none, Bool.toNat_false] at owed ⊢
    omega
  lrx _ _ h := h.same rfl rfl rfl rfl rfl h.counts rfl
  transit := transitKept_partBounded 1
  lanes := laneKept_partBounded 1
  events _ h := h.same rfl rfl rfl rfl rfl ⟨h.counts.owed, h.counts.errors, h.counts.items⟩ rfl
  profile _ _ _ _ h := h.same rfl rfl rfl rfl rfl h.counts rfl
  tone _ _ _ h := h.same rfl rfl rfl rfl rfl h.counts rfl
  timebase _ _ _ _ _ _ h := ⟨h.lanes, h.transit, h.replies, lt_max_of_lt_left Nat.one_pos, h.counts⟩
  reload tag s h := by
    have owed := h.counts.owed
    refine h.same rfl rfl rfl rfl rfl ⟨?_, h.counts.errors, h.counts.items⟩ rfl
    change s.req.inProgress.isSome.toNat + 1 + 0 ≤ s.req.owed
    omega
  restart _ _ _ := .of_reset (cause := .request) rfl rfl rfl rfl rfl
  answer tag kind code body s h := by
    have owed := h.counts.owed
    refine ⟨h.lanes, h.transit, ?_, h.pulses, ?_, h.counts.errors, h.counts.items⟩
    · have := h.replies
      simp only [State.answer, State.withReq_replies, State.withReplies_replies, State.withReq_req, List.length_append,
        List.length_singleton]
      omega
    · simp only [State.answer, State.withReq_req]
      omega

theorem linkKept_partBounded : LinkKept (PartBounded 0) (PartBounded 1) where
  lanes := laneKept_partBounded 0
  transit := transitKept_partBounded 0
  requests := requestKept_partBounded
  lrx _ _ h := h.same rfl rfl rfl rfl rfl h.counts rfl
  stray _ h := h.same rfl rfl rfl rfl rfl
    ⟨h.counts.owed, ⟨raiseCounter_le _ _, h.counts.errors.2⟩, h.counts.items⟩ rfl
  tagParity _ h := by
    obtain ⟨stray, -, rest⟩ := h.counts.errors
    exact h.same rfl rfl rfl rfl rfl ⟨h.counts.owed, ⟨stray, raiseCounter_le _ _, rest⟩, h.counts.items⟩ rfl
  extraData _ h := by
    obtain ⟨stray, tag, -, rest⟩ := h.counts.errors
    exact h.same rfl rfl rfl rfl rfl ⟨h.counts.owed, ⟨stray, tag, raiseCounter_le _ _, rest⟩, h.counts.items⟩ rfl
  rxOverrun _ h := by
    obtain ⟨stray, tag, extra, -, tx⟩ := h.counts.errors
    exact h.same rfl rfl rfl rfl rfl ⟨h.counts.owed, ⟨stray, tag, extra, raiseCounter_le _ _, tx⟩, h.counts.items⟩ rfl
  takeRequest len data s free h := by
    have owed := h.counts.owed
    have room : s.replies.length + s.req.owed < 8 := Nat.lt_of_not_le (of_decide_eq_false (Bool.or_eq_false_iff.1 free).1)
    refine ⟨h.lanes, h.transit, ?_, h.pulses, ?_, h.counts.errors, h.counts.items⟩
    · change s.replies.length + (s.req.owed + 1) ≤ 8
      omega
    · change 1 + s.req.bootRunning.isSome.toNat + 0 ≤ s.req.owed + 1
      omega
  requestData sym s h := by
    unfold State.requestData
    split
    · exact h
    · rename_i q running
      have owed := h.counts.owed
      rw [running] at owed
      exact h.same rfl rfl rfl rfl rfl ⟨owed, h.counts.errors, h.counts.items⟩ rfl

theorem emissionKept_partBounded : EmissionKept (PartBounded 0) where
  laneAgain n _ h := linkKept_partBounded.kept.presentLaneAgain n h
  requestAgain _ h := linkKept_partBounded.kept.presentRequestAgain h
  etx _ _ h := h.same rfl rfl rfl rfl rfl h.counts rfl
  dtx _ _ h := h.same rfl rfl rfl rfl rfl h.counts rfl
  transitTail t rest s head h := h.withTransit (by
    have := h.transit
    rw [head, List.length_cons] at this
    omega)
  storeTail n s h := by
    refine h.setLane n ?_
    have held := (h.lanes n).store
    refine { h.lanes n with store := le_trans ?_ held }
    cases (s.lane n).store with
    | nil => simp
    | cons g rest => simp
  repliesTail s h := by
    have := h.replies
    refine ⟨h.lanes, h.transit, ?_, h.pulses, h.counts⟩
    simp only [State.withReplies_replies, List.length_tail, State.withReplies_req]
    omega
  endClosing n s room h := (laneKept_partBounded 0).queueFinal n s room h

theorem commandKept_partBounded : CommandKept (PartBounded 0) (PartBounded 1) where
  toLinkKept := linkKept_partBounded
  pending _ _ h := h.same rfl rfl rfl rfl rfl h.counts rfl
  blocksReset cause _ _ := .of_reset (cause := cause) rfl rfl rfl rfl rfl
  resetLine _ _ h := h.same rfl rfl rfl rfl rfl h.counts rfl
  startUp _ _ h := h.same rfl rfl rfl rfl rfl h.counts rfl
  time s v hv h := by
    refine ⟨h.lanes, h.transit, h.replies, ?_, h.counts⟩
    rcases hv with below | stands
    · exact below
    · exact stands ▸ h.pulses
  bus _ _ h := h.same rfl rfl rfl rfl rfl h.counts rfl
  dstop _ _ _ h := h.same rfl rfl rfl rfl rfl h.counts rfl
  emitUnitBegin _ h := emissionKept_partBounded.emitUnitBegin h
  sendNext _ h := emissionKept_partBounded.sendNext h
  bootIdle _ h := h.same rfl rfl rfl rfl rfl h.counts rfl
  bootMore _ _ _ _ _ h := h.same rfl rfl rfl rfl rfl h.counts rfl
  bootApply _ h := h.same rfl rfl rfl rfl rfl h.counts rfl
  image _ _ _ _ _ h := ⟨h.lanes, h.transit, h.replies, lt_max_of_lt_left Nat.one_pos, h.counts⟩
  started _ h := h.same rfl rfl rfl rfl rfl h.counts rfl
  reloadEnds tag s running h := by
    have owed := h.counts.owed
    rw [running] at owed
    exact h.same rfl rfl rfl rfl rfl ⟨owed, h.counts.errors, h.counts.items⟩ rfl

/-! ## The link's bounds outside arrivals -/

namespace LinkBounded

variable {s : State}

theorem lane {t : State} {n : Fin 4} (h : LinkBounded s) (f : LaneFrame n s t) : LinkBounded t :=
  linkBounded_iff.2 ((linkBounded_iff.1 h).lane f)

theorem reset {s : State} (hl : s.lrx = {}) (hr : s.req.inProgress = none) : LinkBounded s :=
  linkBounded_iff.2 (.of_reset hl hr)

theorem emission : EmissionKept LinkBounded where
  laneAgain n _ h := h.presentLaneAgain n
  requestAgain _ h := h.presentRequestAgain
  etx _ _ h := h.of_eq rfl rfl
  dtx _ _ h := h.of_eq rfl rfl
  transitTail _ _ _ _ h := h.of_eq rfl rfl
  storeTail _ _ h := h.of_eq rfl rfl
  repliesTail _ h := h.of_eq rfl rfl
  endClosing n s _ h := h.lane (.endClosing n s)

theorem symbolSent (h : LinkBounded s) : LinkBounded s.symbolSent := by
  unfold State.symbolSent
  split
  · exact emission.sendNext h
  · exact h

theorem sendSymbols (k : Nat) (h : LinkBounded s) : LinkBounded (s.sendSymbols k) := by
  induction k generalizing s with
  | zero => exact h
  | succ k ih => exact ih h.symbolSent

theorem unitEnd (h : LinkBounded s) : LinkBounded s.unitEnd := by
  unfold State.unitEnd
  split
  · exact h
  · split
    · exact h.sendSymbols _
    · exact h

theorem tickLane (n : Fin 4) (h : LinkBounded s) : LinkBounded (s.tickLane n) := by
  unfold State.tickLane
  dsimp only
  split
  · split
    · exact (h.lane (.setLane n s _)).lane (.expire n _)
    · exact h.lane (.setLane n s _)
  · exact h

theorem tickLanes (h : LinkBounded s) : LinkBounded s.tickLanes := by
  unfold State.tickLanes
  split
  · exact (((h.tickLane 0).tickLane 1).tickLane 2).tickLane 3
  · exact h

theorem withTime (h : LinkBounded s) (v : TimeBase) : LinkBounded (s.withTime v) := h.of_eq rfl rfl

theorem pulse (h : LinkBounded s) : LinkBounded s.pulse := by
  unfold State.pulse
  dsimp only
  split
  · exact h
  · split
    · exact (h.withTime _).tickLanes
    · exact h.withTime _

theorem tick (h : LinkBounded s) : LinkBounded s.tick := by
  unfold State.tick
  dsimp only
  split
  · exact h
  · exact (h.withTime _).tickLanes

theorem refCycle (h : LinkBounded s) : LinkBounded s.refCycle := by
  unfold State.refCycle
  split
  · exact h
  · split
    · exact h.pulse
    · exact h.withTime _

theorem stallExpiry (n : Fin 4) (h : LinkBounded s) : LinkBounded (s.stallExpiry n) := by
  unfold State.stallExpiry
  split
  · exact (h.lane (.setLane n s _)).lane (.expire n _)
  · exact h

theorem endBootLoad (code : ReplyCode) (h : LinkBounded s) : LinkBounded (s.endBootLoad code) := by
  have idle : LinkBounded (s.withBoot {}) := h.of_eq rfl rfl
  unfold State.endBootLoad
  dsimp only
  split
  · exact drainFifo _ (idle.of_eq rfl rfl)
  · unfold State.endReload
    split
    · exact idle
    · exact presentHeld (idle.of_eq rfl rfl)
  · exact idle

theorem bootByteRead (v : Byte) (h : LinkBounded s) : LinkBounded (s.bootByteRead v) := by
  unfold State.bootByteRead
  split
  · exact h
  · dsimp only
    split
    · exact endBootLoad _ (h.of_eq rfl rfl)
    · exact h.of_eq rfl rfl
    · split
      · exact h.of_eq rfl rfl
      · exact endBootLoad _ (h.of_eq rfl rfl)

theorem bootNoAnswer (h : LinkBounded s) : LinkBounded s.bootNoAnswer := by
  unfold State.bootNoAnswer
  split
  · exact h
  · exact endBootLoad _ (h.of_eq rfl rfl)

theorem resetAssert (s : State) : LinkBounded s.resetAssert := by
  unfold State.resetAssert
  dsimp only
  split <;> exact reset rfl rfl

theorem resetRelease (adr : BitVec 5) (h : LinkBounded s) : LinkBounded (s.resetRelease adr) := by
  unfold State.resetRelease
  split
  · exact h.of_eq rfl rfl
  · exact h

theorem dstopAssert (h : LinkBounded s) : LinkBounded s.dstopAssert := by
  unfold State.dstopAssert
  split
  · exact h
  · exact h.of_eq rfl rfl

/-- Every command keeps the link's bounds: those of chapters 1, 9 and 10 by the symbols that arrive, the others but for what
they present again. -/
theorem exec (c : Instr) {t : State} (h : LinkBounded s) (he : exec c s = .next t) : LinkBounded t := by
  have next : ∀ u : State, LinkBounded u → (Host.Outcome.next u : Host.Outcome State Fault Refusal) = .next t →
      LinkBounded t := by
    rintro u hu ⟨⟩
    exact hu
  cases c with
  | powerOn adr => exact next (s.powerOn adr) (reset rfl rfl) he
  | resetAssert => exact next _ (resetAssert s) he
  | resetRelease adr => exact next _ (h.resetRelease adr) he
  | symbolArrival sym => exact next _ (h.arrive sym) he
  | presentHeldUnit => exact next _ h.presentHeld he
  | closingQueue n => exact next _ (h.retestClosing n) he
  | stallExpiry n => exact next _ (h.stallExpiry n) he
  | prescalerPulse => exact next _ h.pulse he
  | tick => exact next _ h.tick he
  | emitUnitBegin => exact next _ (emission.emitUnitBegin h) he
  | symbolSent => exact next _ h.symbolSent he
  | unitEnd => exact next _ h.unitEnd he
  | dstopAssert => exact next _ h.dstopAssert he
  | dstopDeassert => exact next s.dstopDeassert (h.of_eq rfl rfl) he
  | bootMemoryNoAnswer => exact next _ h.bootNoAnswer he
  | bootByteRead b => exact next _ (h.bootByteRead b) he
  | itemOpen | line | itemClose | loadProfile | readProfile | loadTone | readTone | loadTimebase | readStatus | abortLane
  | restartPart | reloadBoot => exact next _ (h.arriveAll _) he

theorem step {t : State} (h : LinkBounded s) (he : Machine.step s = .next t) : LinkBounded t := by
  unfold Machine.step at he
  split at he
  · cases he; exact h.refCycle
  · rename_i c rest _; exact exec (s := s.withPending rest) c (h.of_eq rfl rfl) he

end LinkBounded

/-- Settles O47: a place is taken only where one is free, a row that fills a band or a group empties it, a counter stops or
wraps at its end, and a reply stands for each request in progress. -/
theorem stepKeepsBounds : Obligations.StepKeepsBounds := by
  intro s t h he
  obtain ⟨link, part⟩ := withinBounds_iff.1 h
  exact withinBounds_iff.2 ⟨link.step he, commandKept_partBounded.stepKept.step part he⟩

end Sys2Proof.Machine
end

section
/-! SUPPORT. The machine's step, the resets, USTOP#, the reference clock and DSTOP#. -/

namespace Sys2Proof.Machine

/-- Settles O1: the queue's two ends are the two arms of the step. -/
theorem stepRunsFrontCommand : Obligations.StepRunsFrontCommand := fun _ _ _ => rfl

/-! ## The reset values -/

theorem laneAtReset_eq : laneAtReset = {} := rfl

/-- R22 to R166: every block at its reset values. -/
theorem blocksAtReset_blocksReset (cause : ResetCause) (s : State) : BlocksAtReset cause (s.blocksReset cause) where
  lanes n := by simp [State.blocksReset, State.lane, laneAtReset_eq]
  pool := rfl
  lrx := rfl
  transit := rfl
  replies := rfl
  etx := rfl
  valid k := by simp [State.blocksReset]
  records k := by
    have empty : (s.blocksReset cause).tables.profiles[k] = {} := by simp [State.blocksReset]
    rw [empty]
    rfl
  tones k i := by simp [State.blocksReset]
  inUse k := by simp [State.blocksReset]
  setting := ⟨rfl, rfl⟩
  requests := rfl
  time := ⟨rfl, rfl⟩

/-- What a reset's values do not speak of may change. -/
theorem BlocksAtReset.same {cause : ResetCause} {s t : State} (h : BlocksAtReset cause s) (lanes : t.lanes = s.lanes)
    (pool : t.pool = s.pool) (lrx : t.lrx = s.lrx) (transit : t.transit = s.transit) (replies : t.replies = s.replies)
    (etx : t.etx = s.etx) (tables : t.tables = s.tables) (req : t.req = s.req) (time : t.time = s.time) :
    BlocksAtReset cause t where
  lanes n := by rw [show t.lane n = s.lane n from congrArg (·[n]) lanes]; exact h.lanes n
  pool := pool ▸ h.pool
  lrx := lrx ▸ h.lrx
  transit := transit ▸ h.transit
  replies := replies ▸ h.replies
  etx := etx ▸ h.etx
  valid := tables ▸ h.valid
  records := tables ▸ h.records
  tones := tables ▸ h.tones
  inUse := tables ▸ h.inUse
  setting := tables ▸ h.setting
  requests := req ▸ h.requests
  time := time ▸ h.time

theorem ustop_of_startUp {s : State} (h : s.startUp = true) : s.ustop = true := by simp [State.ustop, h]

theorem ustop_of_resetLine {s : State} (h : s.resetLine = true) : s.ustop = true := by simp [State.ustop, h]

/-- Settles O2. -/
theorem powerOnResetsEveryBlock : Obligations.PowerOnResetsEveryBlock := by
  intro adr s
  refine ⟨s.powerOn adr, rfl, ?_, rfl, rfl, rfl, rfl, ustop_of_startUp rfl, rfl, rfl, rfl, rfl, rfl⟩
  exact (blocksAtReset_blocksReset .powerOn s).same rfl rfl rfl rfl rfl rfl rfl rfl rfl

/-- R131, R143: while RESET# is asserted a symbol is dropped, and nothing is sent. -/
theorem held_in_reset {t : State} (reset : t.resetLine = true) (current : t.etx.current = none) :
    (∀ sym, exec (.symbolArrival sym) t = .next t) ∧ exec .emitUnitBegin t = .next t ∧ exec .symbolSent t = .next t := by
  refine ⟨fun sym => ?_, ?_, ?_⟩
  · change Host.Outcome.next (t.arrive sym) = _
    rw [State.arrive, if_pos reset]
  · change Host.Outcome.next t.emitUnitBegin = _
    rw [State.emitUnitBegin, if_neg (by simp [State.mayBegin, reset])]
  · change Host.Outcome.next t.symbolSent = _
    simp [State.symbolSent, State.sendNext, current]

/-- Settles O3: the assertion's state is that of the resets, whatever the wires of a boot load do. -/
theorem resetLineHoldsAndRestartsPart : Obligations.ResetLineHoldsAndRestartsPart := by
  refine ⟨fun s => ?_, fun adr s => ⟨fun asserted => ?_, fun released => ?_⟩⟩
  · have blocks := blocksAtReset_blocksReset .resetLine s
    by_cases idle : s.boot.phase = .idle
    · have e : s.resetAssert = { s.blocksReset .resetLine with resetLine := true } := by simp [State.resetAssert, idle]
      refine ⟨_, congrArg Host.Outcome.next e, blocks.same rfl rfl rfl rfl rfl rfl rfl rfl rfl, rfl, rfl, rfl, rfl,
        ustop_of_resetLine rfl, ⟨rfl, rfl, rfl, rfl⟩, ?_, held_in_reset rfl rfl⟩
      rw [if_pos idle]
      rfl
    · have e : s.resetAssert = State.putBus [.released] { s.blocksReset .resetLine with resetLine := true } := by
        simp [State.resetAssert, idle]
      refine ⟨_, congrArg Host.Outcome.next e, blocks.same rfl rfl rfl rfl rfl rfl rfl rfl rfl, rfl, rfl, rfl, rfl,
        ustop_of_resetLine rfl, ⟨rfl, rfl, rfl, rfl⟩, ?_, held_in_reset rfl rfl⟩
      rw [if_neg idle]
      rfl
  · change Host.Outcome.next (s.resetRelease adr) = _
    rw [State.resetRelease, if_pos asserted]
    rfl
  · change Host.Outcome.next (s.resetRelease adr) = _
    rw [State.resetRelease, released]
    rfl

/-- Settles O4: the reset state is that of a power-on, and an empty part is balanced, within bounds, nested and legal. -/
theorem resetStateHoldsValuesAndInvariants : Obligations.ResetStateHoldsValuesAndInvariants := by
  refine ⟨?_, rfl, rfl, rfl, rfl, ustop_of_startUp rfl, rfl, rfl, rfl, rfl, .of_reset rfl rfl rfl, ?_,
    .of_empty rfl rfl (by simp [State.reset]), ?_⟩
  · exact (blocksAtReset_blocksReset .powerOn State.reset).same rfl rfl rfl rfl rfl rfl rfl rfl rfl
  · exact withinBounds_iff.2 ⟨.reset rfl rfl, .of_reset (cause := .powerOn) rfl rfl rfl rfl rfl⟩
  · exact (TablesLegal.of_reset (s := State.reset.withBoot {}) rfl .default rfl).replace rfl .default (.start .check _)

/-! ## USTOP# -/

theorem storeLow_iff (s : State) :
    s.storeLow = true ↔ ∃ n, 32768 - ((s.lane n).store.map segSize).sum < 16896 := by
  rw [State.storeLow, State.lanes_toList, List.any_eq_true]
  constructor
  · rintro ⟨l, hl, low⟩
    have lane : ∃ n, l = s.lane n := by
      simp only [List.mem_cons, List.not_mem_nil, or_false] at hl
      rcases hl with e | e | e | e <;> exact ⟨_, e⟩
    obtain ⟨n, rfl⟩ := lane
    exact ⟨n, of_decide_eq_true low⟩
  · rintro ⟨n, low⟩
    have mem : ∀ n, s.lane n ∈ [s.lane 0, s.lane 1, s.lane 2, s.lane 3] := by
      intro n
      fin_cases n <;> simp
    exact ⟨s.lane n, mem n, decide_eq_true low⟩

theorem etxWaits_iff (s : State) :
    s.etxWaits = true ↔ ∃ len sent, s.etx.current = some ⟨.transit len, sent⟩ ∧ s.transit = [] := by
  unfold State.etxWaits
  split
  · rename_i len sent current
    simp [current]
  · rename_i other
    exact ⟨nofun, fun ⟨len, sent, current, _⟩ => absurd current (other len sent)⟩

/-- Settles O7. -/
theorem stopLineAssertedWhile : Obligations.StopLineAssertedWhile := by
  intro s
  have full : decide (transitStop < s.transit.length) = true ↔ 2048 < s.transit.length := decide_eq_true_iff
  rw [← storeLow_iff, ← etxWaits_iff, ← full]
  simp only [State.ustop, Bool.or_eq_true, Bool.and_eq_true, Bool.not_eq_true', Bool.not_eq_true, bne_iff_ne,
    Option.isSome_iff_ne_none, or_assoc]

/-! ## The Time Base -/

/-- R165: one pulse turns the half-step phase where the interval is a half step. -/
theorem phaseAfter_one (c : Nat) (phase : Bool) : phaseAfter c 1 phase = if c % 2 = 0 then !phase else phase := by
  simp [phaseAfter]

/-- R165: the two intervals that alternate. -/
theorem pulseInterval_eq (c : Nat) :
    pulseInterval c false = (c + 2) / 2 ∧ pulseInterval c (phaseAfter c 1 false) = (c + 1) / 2 ∧
      phaseAfter c 1 (phaseAfter c 1 false) = false := by
  rw [phaseAfter_one, phaseAfter_one]
  rcases Nat.mod_two_eq_zero_or_one c with even | odd
  · simp only [pulseInterval, even]
    refine ⟨?_, ?_, by simp⟩
    · simp
    · simp
  · simp only [pulseInterval, odd]
    refine ⟨?_, ?_, by simp⟩
    · simp
      omega
    · simp

/-- R165: a pulse that does not fill the divisor raises the count; the one that does is the tick. -/
theorem pulse_below {s : State} (running : s.tables.prescale ≠ 0) (below : s.time.pulses + 1 < s.tables.divisor) :
    s.pulse =
      s.withTime
        { cycles := 0
          phase := if s.tables.prescale % 2 = 0 then !s.time.phase else s.time.phase
          pulses := s.time.pulses + 1 } := by
  simp [State.pulse, running, Nat.not_le.2 below, phaseAfter_one]

theorem pulse_fills {s : State} (running : s.tables.prescale ≠ 0) (fills : s.time.pulses + 1 = s.tables.divisor) :
    s.pulse = s.tick := by
  have missing : s.tables.divisor - s.time.pulses = 1 := by omega
  simp [State.pulse, State.tick, running, fills, missing]

/-- Settles O41. -/
theorem clockCyclesAndPulsesMakeTicks : Obligations.ClockCyclesAndPulsesMakeTicks := by
  refine ⟨fun s empty => ?_, fun s => ⟨fun stopped => ?_, fun running => ⟨fun below => ?_, fun fills => ?_⟩⟩,
    fun c _ => pulseInterval_eq c⟩
  · unfold step
    rw [empty]
    change Host.Outcome.next s.refCycle = _
    congr 1
    simp only [State.refCycle, Bool.or_eq_true, beq_iff_eq]
    by_cases stopped : s.resetLine = true ∨ s.tables.prescale = 0
    · rw [if_pos stopped, if_pos stopped]
    · rw [if_neg stopped, if_neg stopped]
      by_cases fills : s.time.cycles + 1 < pulseInterval s.tables.prescale s.time.phase
      · rw [if_neg (Nat.not_le.2 fills), if_pos fills]
      · rw [if_pos (Nat.not_lt.1 fills), if_neg fills]
  · constructor
    · change Host.Outcome.next s.pulse = _
      simp [State.pulse, stopped]
    · change Host.Outcome.next s.tick = _
      simp [State.tick, stopped]
  · exact congrArg Host.Outcome.next (pulse_below running below)
  · exact congrArg Host.Outcome.next (pulse_fills running fills)

/-! ## DSTOP# -/

theorem symbolAtHand_eq (s : State) :
    s.symbolAtHand =
      match s.etx.current with
      | none => false
      | some ⟨.transit _, _⟩ => decide (s.transit ≠ [])
      | some _ => true := by
  unfold State.symbolAtHand
  rcases s.etx.current with _ | ⟨what, sent⟩
  · rfl
  · cases what with
    | transit => cases s.transit <;> rfl
    | segOpen | chunk | segClose | abandoned | fill => rfl

/-- R127: with DSTOP# asserted and no symbol being sent, neither a symbol nor the rest of a unit leaves. -/
theorem paused {s : State} (held : s.dstop = true) (rest : s.etx.inFlight = false) :
    s.symbolSent = s ∧ s.unitEnd = s := by
  refine ⟨by simp [State.symbolSent, State.portOpen, held, rest], ?_⟩
  unfold State.unitEnd
  split
  · rfl
  · rw [if_neg (by simp [held, rest])]

/-- Settles O34. -/
theorem dstopPausesEmission : Obligations.DstopPausesEmission := by
  refine fun s => ⟨fun level => ?_, fun held => ⟨?_, ?_⟩, fun held rest => ?_, rfl⟩
  · change Host.Outcome.next s.dstopAssert = _
    rw [State.dstopAssert, if_neg (by simp [level]), symbolAtHand_eq] <;> rfl
  · change Host.Outcome.next s.dstopAssert = _
    rw [State.dstopAssert, if_pos held]
  · change Host.Outcome.next s.emitUnitBegin = _
    rw [State.emitUnitBegin, if_neg (by simp [State.mayBegin, held])]
  · obtain ⟨symbol, unit⟩ := paused held rest
    exact ⟨congrArg Host.Outcome.next symbol, congrArg Host.Outcome.next unit⟩

end Sys2Proof.Machine
end

section
/-! SUPPORT. What the blocks compute: the Band Pool's grants, the record's bytes, the result record, the grey rows and the
bands. -/

namespace Sys2Proof.Machine

/-! ## The Band Pool -/

/-- Settles O52: the heights are tried in falling order, so the first that fits has only higher ones before it. -/
theorem poolGrantsFirstHeightThatFits : Obligations.PoolGrantsFirstHeightThatFits := by
  intro free w code requested
  have tries : poolGrant free w requested =
      [32, 16, 8, 4].find? fun k => decide (k ≤ requested) && decide (k * w ≤ free) := by
    rw [poolGrant, List.find?_filter]
    simp only [decide_eq_true_eq, Bool.decide_and]
  rw [tries]
  refine ⟨fun h member asked fits higher => ?_, fun small => ?_⟩
  · obtain ⟨before, after, split⟩ := List.append_of_mem member
    have falling : (before ++ h :: after).Pairwise (· > ·) := split ▸ (by decide)
    refine List.find?_eq_some_iff_append.2 ⟨by simp [asked, fits], before, after, split, fun k early => ?_⟩
    have above : h < k := (List.pairwise_append.1 falling).2.2 k early h (.head _)
    have tall := higher k (split ▸ List.mem_append_left _ early) above
    simp only [Bool.not_eq_true', Bool.and_eq_false_iff, decide_eq_false_iff_not]
    by_cases le : k ≤ requested
    · exact .inr (Nat.not_le.2 (tall le))
    · exact .inl le
  · refine List.find?_eq_none.2 fun k member fits => ?_
    have least : ∀ k ∈ [32, 16, 8, 4], 4 ≤ k := by decide
    have wide : 4 * w ≤ k * w := Nat.mul_le_mul_right w (least k member)
    simp only [Bool.and_eq_true, decide_eq_true_eq] at fits
    omega

/-! ## Bytes of numbers -/

theorem beValue_cons (b : Byte) (bytes : List Byte) :
    beValue (b :: bytes) = b.toNat * 256 ^ bytes.length + beValue bytes := by
  have acc : ∀ (bytes : List Byte) (n : Nat),
      bytes.foldl (fun n b => n * 256 + b.toNat) n = n * 256 ^ bytes.length + beValue bytes := by
    intro bytes
    induction bytes with
    | nil => simp [beValue]
    | cons a rest ih =>
      intro n
      have first := ih (0 * 256 + a.toNat)
      rw [beValue, List.foldl_cons, List.foldl_cons, ih, first, List.length_cons]
      ring
  simpa [beValue] using acc bytes b.toNat

theorem beValue_lt (bytes : List Byte) : beValue bytes < 256 ^ bytes.length := by
  induction bytes with
  | nil => simp [beValue]
  | cons b rest ih =>
    rw [beValue_cons, List.length_cons, pow_succ]
    have := b.isLt
    nlinarith

/-- The number that the last bytes of a number spell. -/
theorem beValue_beBytes (k v : Nat) : beValue (beBytes k v) = v % 256 ^ k := by
  induction k with
  | zero => simp [beBytes, beValue, Nat.mod_one]
  | succ k ih =>
    have top : (BitVec.ofNat 8 (v / 256 ^ k)).toNat = v / 256 ^ k % 256 := by simp
    rw [beBytes, beValue_cons, ih, beBytes_length, top, pow_succ, Nat.mod_mul]
    ring

/-- The bytes of the number that some bytes spell. -/
theorem beBytes_beValue (bytes : List Byte) : beBytes bytes.length (beValue bytes) = bytes := by
  have shift : ∀ (k a m : Nat), beBytes k (a * 256 ^ k + m) = beBytes k m := by
    intro k
    induction k with
    | zero => exact fun _ _ => rfl
    | succ k ih =>
      intro a m
      have quotient : (a * 256 ^ (k + 1) + m) / 256 ^ k = m / 256 ^ k + 256 * a := by
        rw [show a * 256 ^ (k + 1) + m = m + 256 ^ k * (256 * a) by ring, Nat.add_mul_div_left _ _ (by positivity)]
      have rest := ih (256 * a) m
      rw [show 256 * a * 256 ^ k = a * 256 ^ (k + 1) by ring] at rest
      rw [beBytes, beBytes, quotient, rest]
      congr 1
      apply BitVec.eq_of_toNat_eq
      simp
  induction bytes with
  | nil => rfl
  | cons b rest ih =>
    have small := beValue_lt rest
    have top : (b.toNat * 256 ^ rest.length + beValue rest) / 256 ^ rest.length = b.toNat := by
      rw [mul_comm, Nat.mul_add_div (by positivity), Nat.div_eq_of_lt small, add_zero]
    rw [List.length_cons, beBytes, beValue_cons, top, shift, ih]
    simp

/-! ## The profile record -/

/-- R24: the bytes of a record's field are those that stand in its place. -/
theorem beBytes_fieldAt (bytes : List Byte) (i k : Nat) (inside : i + k ≤ bytes.length) :
    beBytes k (fieldAt bytes i k) = (bytes.drop i).take k := by
  have size : ((bytes.drop i).take k).length = k := by simp; omega
  have spelled := beBytes_beValue ((bytes.drop i).take k)
  rwa [size] at spelled

theorem fieldAt_lt (bytes : List Byte) (i k : Nat) : fieldAt bytes i k < 256 ^ k :=
  (beValue_lt _).trans_le (Nat.pow_le_pow_right (by decide) (List.length_take_le ..))

theorem take_succ_getD (bytes : List Byte) (i : Nat) (inside : i < bytes.length) :
    bytes.take (i + 1) = bytes.take i ++ [bytes.getD i 0] := by
  rw [List.take_add_one, List.getD_eq_getElem?_getD, List.getElem?_eq_getElem inside]
  rfl

theorem take_add_append (bytes : List Byte) (i k : Nat) :
    bytes.take i ++ (bytes.drop i).take k = bytes.take (i + k) := List.take_add.symm

theorem recordBytes_recordOfBytes {bytes : List Byte} (size : bytes.length = 36) :
    recordBytes (recordOfBytes bytes) = bytes := by
  have word : ∀ i, i + 2 ≤ 36 → beBytes 2 (BitVec.ofNat 16 (fieldAt bytes i 2)).toNat = (bytes.drop i).take 2 := by
    intro i hi
    have below := fieldAt_lt bytes i 2
    rw [BitVec.toNat_ofNat, Nat.mod_eq_of_lt (by omega), beBytes_fieldAt _ _ _ (by omega)]
  have long : ∀ i, i + 4 ≤ 36 → beBytes 4 (BitVec.ofNat 32 (fieldAt bytes i 4)).toNat = (bytes.drop i).take 4 := by
    intro i hi
    have below := fieldAt_lt bytes i 4
    rw [BitVec.toNat_ofNat, Nat.mod_eq_of_lt (by omega), beBytes_fieldAt _ _ _ (by omega)]
  have single : ∀ i < 36, bytes.take (i + 1) = bytes.take i ++ [bytes.getD i 0] :=
    fun i hi => take_succ_getD bytes i (by omega)
  have head : [bytes.getD 0 0, bytes.getD 1 0, bytes.getD 2 0, bytes.getD 3 0, bytes.getD 4 0, bytes.getD 5 0,
      bytes.getD 6 0, bytes.getD 7 0, bytes.getD 8 0, bytes.getD 9 0, bytes.getD 10 0, bytes.getD 11 0, bytes.getD 12 0,
      bytes.getD 13 0, bytes.getD 14 0, bytes.getD 15 0, bytes.getD 16 0] = bytes.take 17 := by
    rw [single 16 (by decide), single 15 (by decide), single 14 (by decide), single 13 (by decide), single 12 (by decide),
      single 11 (by decide), single 10 (by decide), single 9 (by decide), single 8 (by decide), single 7 (by decide),
      single 6 (by decide), single 5 (by decide), single 4 (by decide), single 3 (by decide), single 2 (by decide),
      single 1 (by decide), single 0 (by decide), List.take_zero]
    rfl
  simp only [recordBytes, recordOfBytes]
  rw [head, word 17 (by decide), word 19 (by decide), word 21 (by decide), word 23 (by decide), long 25 (by decide),
    long 29 (by decide), word 33 (by decide), take_add_append, take_add_append, take_add_append, take_add_append,
    take_add_append, take_add_append, take_add_append, ← single 35 (by decide), List.take_of_length_le (by omega)]

theorem ofNat_beValue_beBytes (k : Nat) {n : Nat} (v : BitVec n) (size : 2 ^ n = 256 ^ k) :
    BitVec.ofNat n (beValue (beBytes k v.toNat)) = v := by
  rw [beValue_beBytes, Nat.mod_eq_of_lt (size ▸ v.isLt), BitVec.ofNat_toNat, BitVec.setWidth_eq]

theorem recordOfBytes_recordBytes (r : Record) : recordOfBytes (recordBytes r) = r := by
  cases r
  simp only [recordOfBytes, Record.mk.injEq]
  refine ⟨rfl, rfl, rfl, rfl, rfl, rfl, rfl, rfl, rfl, rfl, rfl, rfl, rfl, rfl, rfl, rfl, rfl, ?_, ?_, ?_, ?_, ?_, ?_, ?_,
    rfl⟩
  · exact ofNat_beValue_beBytes 2 _ rfl
  · exact ofNat_beValue_beBytes 2 _ rfl
  · exact ofNat_beValue_beBytes 2 _ rfl
  · exact ofNat_beValue_beBytes 2 _ rfl
  · exact ofNat_beValue_beBytes 4 _ rfl
  · exact ofNat_beValue_beBytes 4 _ rfl
  · exact ofNat_beValue_beBytes 2 _ rfl

/-- Settles O60. -/
theorem recordBytesRoundTrip : Obligations.RecordBytesRoundTrip :=
  ⟨fun r => ⟨by simp [recordBytes, beBytes_length], recordOfBytes_recordBytes r⟩,
    fun _ size => recordBytes_recordOfBytes size⟩

/-! ## The result record -/

theorem qualityFlags_eq (l : Lane) :
    qualityFlags l =
      (let r := snapRecord l.snap
       let lines := l.reason = .none ∧ l.flags.aborted = false
       let picture := lines ∧ l.snap.bActive = true
       { short := decide (lines ∧ l.lineCount < r.lMin.toNat)
         long := decide (lines ∧ r.lMax.toNat < l.lineCount)
         light := decide (picture ∧ itemD l < r.dMin.toNat)
         dark := decide (picture ∧ r.dMax.toNat < itemD l)
         small := decide (picture ∧ l.quality.z < r.zMin.toNat)
         large := decide (picture ∧ r.zMax.toNat < l.quality.z)
         streak := decide (picture ∧ r.streakLimit ≠ 0 ∧ r.streakLimit.toNat ≤ streakCount l.quality) }) := by
  have evaluated : checksEvaluated l = decide (l.reason = .none ∧ l.flags.aborted = false) := by
    cases hr : l.reason <;> cases ha : l.flags.aborted <;> simp [checksEvaluated, hr, ha]
  have picture : (checksEvaluated l && l.snap.bActive) =
      decide ((l.reason = .none ∧ l.flags.aborted = false) ∧ l.snap.bActive = true) := by
    rw [evaluated, Bool.decide_and (p := _ ∧ _), Bool.decide_eq_true]
  have limit : ((snapRecord l.snap).streakLimit != 0) = decide ((snapRecord l.snap).streakLimit ≠ 0) := by
    rw [bne, Bool.beq_eq_decide_eq, decide_not]
  simp only [qualityFlags, picture, limit, ← Bool.decide_and]
  simp only [evaluated, ← Bool.decide_and, and_assoc]

theorem procFlagBits_eq (f : ProcFlags) :
    procFlagBits f =
      f.superseded.toNat + 2 * f.stalled.toNat + 4 * f.aborted.toNat + 8 * f.countMismatch.toNat + 16 * f.lineCap.toNat
        + 32 * f.outputLost.toNat + 64 * f.bDropped.toNat + 128 * f.bandReduced.toNat + 256 * f.shortLines.toNat
        + 512 * f.longLines.toNat + 1024 * f.pixelParity.toNat := by
  simp only [procFlagBits, flagBits]
  ring

theorem qualityFlagBits_eq (f : QualityFlags) :
    qualityFlagBits f =
      f.short.toNat + 2 * f.long.toNat + 4 * f.light.toNat + 8 * f.dark.toNat + 16 * f.small.toNat
        + 32 * f.large.toNat + 64 * f.streak.toNat := by
  simp only [qualityFlagBits, flagBits]
  ring

theorem beBytes_one (v : Nat) : beBytes 1 v = [BitVec.ofNat 8 v] := by simp [beBytes]

/-- R110, R170: the record's bytes, field by field. -/
theorem resultBytes_eq (r : ResultRecord) :
    resultBytes r =
      [dispositionByte r.disposition, reasonByte r.reason] ++ beBytes 2 (procFlagBits r.processing)
        ++ [BitVec.ofNat 8 (qualityFlagBits r.quality), r.profile, r.side, BitVec.ofNat 8 r.cls]
        ++ beBytes 2 r.lines ++ beBytes 2 r.wIn ++ beBytes 2 r.wOutB ++ beBytes 2 r.wOutG
        ++ [BitVec.ofNat 8 r.h] ++ beBytes 2 r.bRows ++ beBytes 2 r.gRows ++ beBytes 2 r.bands
        ++ beBytes 2 r.clamped ++ beBytes 2 r.d ++ beBytes 4 r.z ++ beBytes 2 r.streaks ++ beBytes 2 r.shortLines
        ++ beBytes 2 r.longLines ++ beBytes 4 r.parity ++ beBytes 2 r.dropped := by
  unfold resultBytes
  simp only [beBytes_one, List.append_assoc, List.cons_append, List.nil_append]

theorem resultBytes_length (r : ResultRecord) : (resultBytes r).length = 43 := by
  unfold resultBytes
  simp only [List.length_append, beBytes_length, List.length_cons, List.length_nil]

/-- Settles O59. -/
theorem resultRecordComposed : Obligations.ResultRecordComposed := by
  intro n l r q f d streaks lines picture flags processing quality body
  have evaluated : qualityFlags l = flags := qualityFlags_eq l
  have same : resultBytes (resultRecord l) = body := by
    rw [resultBytes_eq]
    simp only [resultRecord, evaluated, procFlagBits_eq, qualityFlagBits_eq]
    rfl
  have size := resultBytes_length (resultRecord l)
  rw [same] at size
  refine ⟨size, ?_⟩
  rw [← same]
  rfl

/-! ## Grey rows -/

/-- R91: two toned values to a byte. -/
theorem packNibbles_eq (vs : List Byte) :
    packNibbles vs =
      (List.range ((vs.length + 1) / 2)).map fun i =>
        BitVec.ofNat 8 (16 * ((vs.getD (2 * i) 0).toNat / 16) + (vs.getD (2 * i + 1) 0).toNat / 16) := by
  fun_induction packNibbles vs with
  | case1 => rfl
  | case2 a => simp [mul_comm]
  | case3 a b rest ih =>
    have half : (rest.length + 1 + 1 + 1) / 2 = (rest.length + 1) / 2 + 1 := by omega
    rw [ih, List.length_cons, List.length_cons, half, List.range_succ_eq_map, List.map_cons, List.map_map]
    refine congrArg₂ _ (by simp [mul_comm]) (List.map_congr_left fun i _ => ?_)
    have even : 2 * (i + 1) = 2 * i + 1 + 1 := by ring
    simp [even]

theorem packGRow_eq (tone : Vector Byte 256) (depth : Nat) (row : List Byte) :
    packGRow tone depth row =
      (let toned := row.map fun g => tone.toList.getD g.toNat 0
       let nibble := fun x => (toned.getD x 0).toNat / 16
       if depth = 4 then
         (List.range ((row.length + 1) / 2)).map fun i => BitVec.ofNat 8 (16 * nibble (2 * i) + nibble (2 * i + 1))
       else toned) := by
  have toned : row.map (toneOf tone) = row.map fun g => tone.toList.getD g.toNat 0 := by
    refine List.map_congr_left fun g _ => ?_
    rw [List.getD_eq_getElem _ _ (by simpa using g.isLt), Vector.getElem_toList]
    rfl
  simp only [packGRow, toned, packNibbles_eq, List.length_map]

theorem codeGRow'_eq (group : List (List Byte)) (prev : Option (List Byte)) (packed : List Byte) :
    codeGRow' (if group = [] then none else prev) packed =
      if group ≠ [] ∧ prev = some packed then [6] else 5 :: packed := by
  unfold codeGRow'
  by_cases empty : group = []
  · simp [empty, codeGRow]
  · simp [empty, codeGRow, codeGSame]

/-- Settles O56. -/
theorem greyRowsPackedIntoGroups : Obligations.GreyRowsPackedIntoGroups := by
  intro tone n rowNo row l toned nibble packed code first segment
  have added : groupAddRow tone l.coder rowNo row =
      { l.coder with group := l.coder.group ++ [code], groupFirstRow := first, prevPacked := some packed } := by
    simp only [groupAddRow, codeGRow'_eq, packGRow_eq]
    rfl
  have size : (l.coder.group ++ [code]).length = l.coder.group.length + 1 := by simp
  refine ⟨fun closed => ?_, fun opened => ⟨fun more => ?_, fun fills => ?_, fun held => ?_⟩⟩
  · simp [takeGRow, closed]
  · rw [takeGRow, if_pos opened]
    simp only [added]
    rw [if_neg (by omega)]
  · rw [takeGRow, if_pos opened]
    simp only [added]
    rw [if_pos (by omega)]
    rfl
  · rw [finishGroup, if_pos (by simp [opened, held])]
    rfl

/-! ## Bands -/

/-- R62: each value of a row is counted in its bin. -/
theorem histogramAdd_eq (hist : Vector Nat 64) (row : List Byte) :
    histogramAdd hist row =
      Vector.ofFn fun i => hist[i] + row.countP fun g => decide (g.toNat / 4 = i.val) := by
  induction row generalizing hist with
  | nil =>
    ext i hi
    simp [histogramAdd]
  | cons g rest ih =>
    change histogramAdd (hist.set _ _ _) rest = _
    rw [ih]
    ext i hi
    simp only [Vector.getElem_ofFn, Fin.getElem_fin, Vector.getElem_set, List.countP_cons]
    split
    case isTrue same => simp [same]; omega
    case isFalse other => simp [other]

theorem bandAddRow_eq (st : BandStore) (rowNo : Nat) (row : List Byte) : bandAddRow st rowNo row = rowTaken st rowNo row := by
  simp only [bandAddRow, rowTaken, histogramAdd_eq]

/-- R62, R63: a row taken by an active band store. -/
theorem takeBRow_eq {n : Fin 4} {rowNo : Nat} {row : List Byte} {l : Lane} (active : l.band.active = true) :
    takeBRow n rowNo row l =
      if l.band.rows.length + 1 = l.snap.h then
        (closeBand { l with band := rowTaken l.band rowNo row },
          some (bandSegment n { l with band := rowTaken l.band rowNo row }))
      else ({ l with band := rowTaken l.band rowNo row }, none) := by
  have size : (rowTaken l.band rowNo row).rows.length = l.band.rows.length + 1 := by simp [rowTaken]
  rw [takeBRow, if_pos active]
  simp only [bandAddRow_eq, size]

/-- R79, R80: what the measures of some rows change of an item's. -/
theorem foldl_measureRow (rows : List (List Bool)) (q : Quality) :
    rows.foldl measureRow q =
      { q with
        blackCount := q.blackCount + (rows.map fun row => row.count true).sum
        streak := rows.foldl (fun streak row => streak.zipWith (· && ·) row) q.streak } := by
  induction rows generalizing q with
  | nil => rfl
  | cons row rest ih =>
    rw [List.foldl_cons, ih]
    simp [measureRow, Nat.add_assoc]

/-- R80: a streak mark stands while its column is black in every row. -/
theorem streak_getElem (rows : List (List Bool)) (streak : List Bool) (x : Nat) (inside : ∀ row ∈ rows, x < row.length) :
    (rows.foldl (fun streak row => streak.zipWith (· && ·) row) streak)[x]? =
      streak[x]?.map fun mark => mark && rows.all fun row => row.getD x true := by
  induction rows generalizing streak with
  | nil => simp
  | cons row rest ih =>
    rw [List.foldl_cons, ih _ fun r hr => inside r (.tail _ hr), List.getElem?_zipWith,
      List.getElem?_eq_getElem (inside row (.head _))]
    cases streak[x]? with
    | none => rfl
    | some mark => simp [List.getElem?_eq_getElem (inside row (.head _)), Bool.and_assoc]

/-- Settles O57. -/
theorem bandTakesRowsAndCloses : Obligations.BandTakesRowsAndCloses := by
  intro n l
  refine ⟨fun rowNo row => ⟨fun off => ?_, fun active => ⟨fun more => ?_, fun fills => ?_⟩⟩, ?_⟩
  · simp [takeBRow, off]
  · rw [takeBRow_eq active, if_neg more]
  · rw [takeBRow_eq active, if_pos fills]
  · intro c g t r rows sought held
    have quality : c.quality =
        { (rows.foldl measureRow l.quality) with
          z := l.quality.z + g.body.length
          bands := l.quality.bands + 1
          clamped := l.quality.clamped + (bandContext l).clamped.toNat } := by
      simp only [c, closeBand, g, bandSegment, List.length_flatten, foldl_measureRow]
      rfl
    rw [foldl_measureRow] at quality
    refine ⟨fun fixed => ?_, fun seeks => ?_, by rw [quality], by rw [quality], fun x inside => ?_, by rw [quality],
      by rw [quality], rfl, rfl, rfl, rfl⟩
    · have context : (bandContext l).tBand = r.tInit.toNat ∧ (bandContext l).clamped = false := by
        simp [bandContext, thresholdContext, fixed, r]
      exact ⟨context.1, by rw [quality, context.2]; rfl⟩
    · have mode : r.mode ≠ 0 := by rw [seeks]; decide
      have context : (bandContext l).tBand = (held + l.band.tPrev + 1) / 2 ∧ (bandContext l).clamped = (held != sought) := by
        simp only [bandContext, thresholdContext]
        rw [if_neg mode]
        exact ⟨rfl, rfl⟩
      refine ⟨context.1, ?_⟩
      rw [quality, context.2]
      by_cases same : held = sought
      · simp [same]
      · simp [same]
    · rw [quality]
      exact streak_getElem rows l.quality.streak x inside

end Sys2Proof.Machine
end

section
/-! SUPPORT. R85 to R87, R90: the row codes of a band, and that they read back as its rows. -/

namespace Sys2Proof.Machine

/-! ## Run lengths -/

/-- R86: the runs of a row, the first of the given colour with `n` pixels already counted. -/
theorem rowOfRuns_runsFrom (colour : Bool) (n : Nat) (row : List Bool) :
    rowOfRuns colour (runsFrom colour n row) = List.replicate n colour ++ row := by
  induction row generalizing colour n with
  | nil => simp [runsFrom, rowOfRuns]
  | cons b rest ih =>
    unfold runsFrom
    split
    case isTrue same =>
      rw [ih, same, List.replicate_succ', List.append_assoc]
      rfl
    case isFalse other =>
      have flipped : (!colour) = b := by cases colour <;> cases b <;> simp_all
      rw [rowOfRuns, flipped, ih]
      rfl

theorem runsFrom_sum (colour : Bool) (n : Nat) (row : List Bool) : (runsFrom colour n row).sum = n + row.length := by
  induction row generalizing colour n with
  | nil => simp [runsFrom]
  | cons b rest ih =>
    unfold runsFrom
    split
    · rw [ih, List.length_cons]; omega
    · rw [List.sum_cons, ih, List.length_cons]; omega

theorem runsFrom_ne_nil (colour : Bool) (n : Nat) (row : List Bool) : runsFrom colour n row ≠ [] := by
  induction row generalizing colour n with
  | nil => simp [runsFrom]
  | cons b rest ih =>
    unfold runsFrom
    split
    · exact ih _ _
    · simp

/-- R86: only the first run may be empty. -/
theorem runsFrom_pos (colour : Bool) {n : Nat} (row : List Bool) (first : 1 ≤ n) :
    ∀ len ∈ runsFrom colour n row, 1 ≤ len := by
  induction row generalizing colour n with
  | nil => simp [runsFrom, first]
  | cons b rest ih =>
    unfold runsFrom
    split
    · exact ih _ (Nat.le_add_left 1 n)
    · exact List.forall_mem_cons.2 ⟨first, ih _ (Nat.le_refl 1)⟩

theorem runsFrom_tail_pos (colour : Bool) (n : Nat) (row : List Bool) :
    ∀ len ∈ (runsFrom colour n row).tail, 1 ≤ len := by
  cases row with
  | nil => simp [runsFrom]
  | cons b rest =>
    unfold runsFrom
    split
    · exact fun len mem => runsFrom_pos _ rest (Nat.le_add_left 1 n) len (List.mem_of_mem_tail mem)
    · exact runsFrom_pos _ rest (Nat.le_refl 1)

theorem rowOfRuns_rowRuns (row : List Bool) : rowOfRuns false (rowRuns row) = row := rowOfRuns_runsFrom false 0 row

theorem rowRuns_sum (row : List Bool) : (rowRuns row).sum = row.length := (runsFrom_sum false 0 row).trans (Nat.zero_add _)

theorem runBytes_eq {n : Nat} (small : n < 16384) : runBytes n = runLengthBytes n := by
  have high : n / 128 < 128 := by omega
  simp [runBytes, runBytesFrom, runLengthBytes, high, Nat.add_comm]

/-- R86: a run length is read back from its bytes. -/
theorem readRun_runLengthBytes {n : Nat} (small : n < 16384) (rest : List Byte) :
    readRun (runLengthBytes n ++ rest) = some (n, rest) := by
  unfold runLengthBytes
  split
  case isTrue one =>
    have value : (BitVec.ofNat 8 n).toNat = n := by rw [BitVec.toNat_ofNat]; omega
    simp only [List.singleton_append, readRun, value, if_pos one]
  case isFalse two =>
    have low : (BitVec.ofNat 8 (128 + n % 128)).toNat = 128 + n % 128 := by rw [BitVec.toNat_ofNat]; omega
    have high : (BitVec.ofNat 8 (n / 128)).toNat = n / 128 := by rw [BitVec.toNat_ofNat]; omega
    simp only [List.cons_append, List.nil_append, readRun, low, high]
    rw [if_neg (by omega), if_pos (by omega)]
    simp only [Option.map_some]
    congr 2
    omega

/-- R86: some runs, none but the first empty, are read back as the row they stand for. -/
theorem readRuns_runs (runs : List Nat) (fuel left : Nat) (colour : Bool) (rest : List Byte) (some_run : runs ≠ [])
    (total : runs.sum = left) (tail : ∀ len ∈ runs.tail, 1 ≤ len) (small : left < 16384) (enough : runs.length ≤ fuel) :
    readRuns fuel left colour (runs.flatMap runLengthBytes ++ rest) = some (rowOfRuns colour runs, rest) := by
  induction runs generalizing fuel left colour with
  | nil => contradiction
  | cons n more ih =>
    obtain ⟨fuel, rfl⟩ : ∃ k, fuel = k + 1 := ⟨fuel - 1, by simp at enough; omega⟩
    rw [List.sum_cons] at total
    have first := readRun_runLengthBytes (n := n) (by omega) (more.flatMap runLengthBytes ++ rest)
    rw [List.flatMap_cons, List.append_assoc, readRuns, first]
    cases more with
    | nil =>
      have last : n = left := by simpa using total
      simp [last, rowOfRuns]
    | cons m later =>
      have after : 1 ≤ (m :: later).sum := (tail m (.head _)).trans (by rw [List.sum_cons]; omega)
      have rest_read := ih fuel (left - n) (!colour) (by simp) (by omega)
        (fun len mem => tail len (.tail _ mem)) (by omega) (by simpa using enough)
      simp only
      rw [if_neg (by omega), if_pos (by omega), rest_read]
      rfl

/-! ## Packed bits -/

/-- R87: a bit of a packed byte. -/
theorem packByte_bit : ∀ (bits : Fin 8 → Bool) (k : Fin 8),
    (BitVec.ofNat 8 (((List.finRange 8).map fun i => (bits i).toNat * 2 ^ (7 - i.val)).sum)).getLsbD (7 - k.val) =
      bits k := by
  decide +kernel

theorem packByte_getLsbD (f : Nat → Bool) {k : Nat} (inside : k < 8) :
    (BitVec.ofNat 8 (((List.range 8).map fun i => (f i).toNat * 2 ^ (7 - i)).sum)).getLsbD (7 - k) = f k :=
  packByte_bit (fun i => f i) ⟨k, inside⟩

theorem packBits_eq (fuel : Nat) (bits : List Bool) (enough : bits.length ≤ fuel) : packBits fuel bits = packedRow bits := by
  induction fuel generalizing bits with
  | zero =>
    have none : bits = [] := List.length_eq_zero_iff.1 (Nat.le_zero.1 enough)
    simp [packBits, packedRow, none]
  | succ fuel ih =>
    rw [packBits]
    split
    case isTrue none => simp [packedRow, none]
    case isFalse more =>
      have pos : 0 < bits.length := List.length_pos_of_ne_nil more
      have count : (bits.length + 7) / 8 = ((bits.drop 8).length + 7) / 8 + 1 := by rw [List.length_drop]; omega
      have first : packByte (bits.take 8) =
          BitVec.ofNat 8 (((List.range 8).map fun i => (bits.getD (8 * 0 + i) false).toNat * 2 ^ (7 - i)).sum) := by
        unfold packByte
        congr 2
        refine List.map_congr_left fun i mem => ?_
        have inside : i < 8 := List.mem_range.1 mem
        simp [List.getD_eq_getElem?_getD, inside]
      rw [ih _ (by rw [List.length_drop]; omega)]
      unfold packedRow
      rw [count, List.range_succ_eq_map (n := ((bits.drop 8).length + 7) / 8), List.map_cons, List.map_map, first]
      refine congrArg (List.cons _) (List.map_congr_left fun j _ => ?_)
      have shift : ∀ i, (bits.drop 8).getD (8 * j + i) false = bits.getD (8 * (j + 1) + i) false := by
        intro i
        rw [List.getD_eq_getElem?_getD, List.getD_eq_getElem?_getD, List.getElem?_drop]
        congr 2
        ring
      simp only [shift, Function.comp_apply, Nat.succ_eq_add_one]

/-- R87: the row's pixels are read back from its packed bits. -/
theorem packedPixel_packedRow {row : List Bool} (rest : List Byte) {x : Nat} (inside : x < row.length) :
    packedPixel (packedRow row ++ rest) x = row.getD x false := by
  have byte : x / 8 < (packedRow row).length := by simp [packedRow]; omega
  unfold packedPixel
  rw [List.getD_eq_getElem?_getD, List.getElem?_append_left byte, List.getElem?_eq_getElem byte, Option.getD_some]
  simp only [packedRow, List.getElem_map, List.getElem_range]
  rw [packByte_getLsbD (fun i => row.getD (8 * (x / 8) + i) false) (Nat.mod_lt x (by decide)), Nat.div_add_mod]

theorem map_packedPixel (row : List Bool) (rest : List Byte) :
    (List.range row.length).map (packedPixel (packedRow row ++ rest)) = row := by
  apply List.ext_getElem (by simp)
  intro x _ inside
  rw [List.getElem_map, List.getElem_range, packedPixel_packedRow rest inside, List.getD_eq_getElem _ _ inside]

/-! ## Row codes -/

/-- R85: the code of a row, its runs and its bits as the book writes them. -/
theorem codeBRow_eq {row : List Bool} (prev : Option (List Bool)) (small : row.length < 16384) :
    codeBRow prev row =
      (let inRuns : List Byte := 3 :: (rowRuns row).flatMap runLengthBytes
       let inBits : List Byte := 4 :: packedRow row
       if ∀ bit ∈ row, bit = false then [1]
       else if prev = some row then [2]
       else if inRuns.length ≤ inBits.length then inRuns
       else inBits) := by
  have runs : codeRuns row = 3 :: (rowRuns row).flatMap runLengthBytes := by
    have total := rowRuns_sum row
    refine congrArg (List.cons 3) (List.flatMap_congr fun len mem => runBytes_eq ?_)
    exact (List.single_le_sum (by simp) len mem).trans_lt (total ▸ small)
  have bits : codeRaw row = 4 :: packedRow row := congrArg (List.cons 4) (packBits_eq _ row le_rfl)
  simp only [codeBRow, runs, bits, List.all_eq_true, beq_iff_eq]
  rfl

/-- R85: each code follows the row before it. -/
theorem codeBRows_getElem (prev : Option (List Bool)) (rows : List (List Bool)) (i : Nat) {row : List Bool}
    (here : rows[i]? = some row) :
    (codeBRows prev rows)[i]? = some (codeBRow (if i = 0 then prev else rows[i - 1]?) row) := by
  induction rows generalizing prev i with
  | nil => simp at here
  | cons r rest ih =>
    cases i with
    | zero =>
      obtain rfl : r = row := by simpa using here
      rfl
    | succ i =>
      rw [codeBRows, List.getElem?_cons_succ, ih (some r) i (by simpa using here)]
      cases i <;> simp

theorem codeBRows_length (prev : Option (List Bool)) (rows : List (List Bool)) :
    (codeBRows prev rows).length = rows.length := by
  induction rows generalizing prev with
  | nil => rfl
  | cons r rest ih => simp [codeBRows, ih]

theorem packedRow_length (row : List Bool) : (packedRow row).length = (row.length + 7) / 8 := by simp [packedRow]

theorem codeBRow_length {row : List Bool} (prev : Option (List Bool)) (small : row.length < 16384) :
    1 ≤ (codeBRow prev row).length ∧ (codeBRow prev row).length ≤ 1 + (row.length + 7) / 8 := by
  rw [codeBRow_eq prev small]
  dsimp only
  split_ifs with white same shorter
  · simp
  · simp
  · rw [List.length_cons (as := packedRow row), packedRow_length] at shorter
    exact ⟨by simp, by omega⟩
  · rw [List.length_cons, packedRow_length]
    omega

/-- R85 to R87: a row is read back from its code. -/
theorem readRow_codeBRow {row : List Bool} (prev : Option (List Bool)) (rest : List Byte) (small : row.length < 16384) :
    readRow row.length prev (codeBRow prev row ++ rest) = some (row, rest) := by
  rw [codeBRow_eq prev small]
  dsimp only
  split_ifs with white same shorter
  · have blank : List.replicate row.length false = row := (List.eq_replicate_of_mem white).symm
    simp [readRow, blank]
  · simp [readRow, same]
  · have size : (rowRuns row).length ≤ row.length + 1 := by
      have total := rowRuns_sum row
      have each := runsFrom_tail_pos false 0 row
      obtain ⟨n, tail, runs⟩ := List.exists_cons_of_ne_nil (runsFrom_ne_nil false 0 row)
      rw [rowRuns, runs] at total ⊢
      rw [runs] at each
      have := List.length_le_sum_of_one_le tail each
      rw [List.sum_cons] at total
      rw [List.length_cons]
      omega
    have read := readRuns_runs (rowRuns row) (row.length + 1) row.length false rest (runsFrom_ne_nil false 0 row)
      (rowRuns_sum row) (runsFrom_tail_pos false 0 row) small size
    simpa [readRow, rowOfRuns_rowRuns] using read
  · have bytes : (packedRow row ++ rest).drop ((row.length + 7) / 8) = rest := by
      rw [← packedRow_length, List.drop_left]
    simp [readRow, map_packedPixel, bytes, packedRow_length]

/-- R90: a body is read back as its rows, each the context of the next. -/
theorem readBody_codeBRows (w : Nat) (small : w < 16384) (prev : Option (List Bool)) (rows : List (List Bool))
    (widths : ∀ row ∈ rows, row.length = w) :
    readBody w rows.length prev (codeBRows prev rows).flatten = some rows := by
  induction rows generalizing prev with
  | nil => rfl
  | cons row rest ih =>
    have width : row.length = w := widths row (.head _)
    have read := readRow_codeBRow (row := row) prev (codeBRows (some row) rest).flatten (by omega)
    rw [width] at read
    rw [codeBRows, List.flatten_cons, List.length_cons, readBody, read]
    simp only [ih (some row) fun r mem => widths r (.tail _ mem)]
    rfl

/-- Settles O55. -/
theorem bandRowsReadBack : Obligations.BandRowsReadBack := by
  intro w rows _ narrow widths
  have small : w < 16384 := by omega
  refine ⟨readBody_codeBRows w small none rows widths, fun code mem => ?_, codeBRows_length none rows, fun i row here => ?_⟩
  · obtain ⟨i, hi, rfl⟩ := List.getElem_of_mem mem
    have inside : i < rows.length := by simpa [codeBRows_length] using hi
    have width : rows[i].length = w := widths _ (List.getElem_mem inside)
    have coded := codeBRows_getElem none rows i (List.getElem?_eq_getElem inside)
    rw [List.getElem?_eq_getElem hi, Option.some.injEq] at coded
    rw [coded, ← width]
    exact codeBRow_length _ (by omega)
  · have width : row.length = w := widths row (List.mem_of_getElem? here)
    refine ⟨rowRuns row, runsFrom_ne_nil _ _ _, runsFrom_tail_pos _ _ _, rowOfRuns_rowRuns row, ?_⟩
    rw [codeBRows_getElem none rows i here, codeBRow_eq _ (by omega)]
    dsimp only
    congr 2
    refine if_congr ?_ rfl rfl
    cases i with
    | zero => simp
    | succ i => simp

end Sys2Proof.Machine
end

section
/-! SUPPORT. R18, R50, R64, R93: what the closing work leaves, the B rendition's part apart from the G rendition's. -/

namespace Sys2Proof.Machine

/-! ## The channels finished -/

/-- R50: a channel at the end of the closing work. -/
theorem channelFinish_channel (ch : Channel) :
    (channelFinish ch).1 =
      if ch.active then
        { ch with
          active := false
          sums := List.replicate ch.wOut 0
          linesMerged := 0
          rowIndex := if 0 < ch.linesMerged then ch.rowIndex + 1 else ch.rowIndex }
      else ch := by
  unfold channelFinish
  split
  case isTrue active =>
    split
    · rfl
    · rw [channelDrop, if_pos active]
  case isFalse => rfl

/-- R50: it emits its partial row exactly if it is active and has lines merged. -/
theorem channelFinish_row (ch : Channel) :
    (channelFinish ch).2.isSome = true ↔ ch.active = true ∧ 0 < ch.linesMerged := by
  unfold channelFinish
  split
  case isTrue active =>
    split
    case isTrue lines => simp [active, lines]
    case isFalse none => simp [none]
  case isFalse off => simp [off]

theorem channelFinish_inactive (ch : Channel) : (channelFinish ch).1.active = false := by
  rw [channelFinish_channel]
  split
  · rfl
  · rename_i off
    simpa using off

theorem channelFinish_rowIndex (ch : Channel) :
    (channelFinish ch).1.rowIndex = if ch.active = true ∧ 0 < ch.linesMerged then ch.rowIndex + 1 else ch.rowIndex := by
  rw [channelFinish_channel]
  cases ch.active <;> simp

/-! ## The B rendition -/

/-- R18 step 1: the lane with its channel's partial row in the band store, if there is one and the store is active. -/
def bandWithPartialRow (l : Lane) : Lane :=
  match (channelFinish l.b).2 with
  | none => l
  | some (i, row) => if l.band.active then { l with band := rowTaken l.band i row } else l

/-- R18 step 2, R64: the lane whose band store holds rows then has them closed. -/
def bandClosed (l : Lane) : Lane :=
  if (bandWithPartialRow l).band.active = true ∧ (bandWithPartialRow l).band.rows ≠ [] then
    closeBand (bandWithPartialRow l)
  else l

/-- R18, R64, R96: the final B segment. -/
def finalBandSegment (n : Fin 4) (l : Lane) : Option Segment :=
  if (bandWithPartialRow l).band.active = true ∧ (bandWithPartialRow l).band.rows ≠ [] then
    some (bandSegment n (bandWithPartialRow l))
  else none

/-- What the B rendition's closing work changes of a lane. -/
def bandFinished (n : Fin 4) (l : Lane) (m : Lane) : Lane :=
  { m with
    state := .closing
    b := (channelFinish l.b).1
    band := { (bandClosed l).band with active := false }
    threshold := (bandClosed l).threshold
    coder := { m.coder with finalB := finalBandSegment n l, bContext := (bandClosed l).coder.bContext }
    quality := (bandClosed l).quality }

theorem bandWithPartialRow_of_row {l : Lane} {i : Nat} {row : List Byte} (emits : (channelFinish l.b).2 = some (i, row))
    (active : l.band.active = true) : bandWithPartialRow l = { l with band := rowTaken l.band i row } := by
  rw [bandWithPartialRow, emits]
  exact if_pos active

theorem bandWithPartialRow_of_not {l : Lane} (none : (channelFinish l.b).2 = none ∨ l.band.active = false) :
    bandWithPartialRow l = l := by
  unfold bandWithPartialRow
  split
  · rfl
  · rename_i emits
    have off : l.band.active = false := none.resolve_left (by simp [emits])
    simp [off]

/-- R18 steps 1 and 2, for a lane whose band store is within its bounds. -/
theorem finishBand_finishB (n : Fin 4) {l : Lane} (fresh : l.coder.finalB = none) :
    finishBand n (finishB n { l with state := .closing }) = bandFinished n l l := by
  have unchanged : finishB n { l with state := .closing } = { l with state := .closing, b := (channelFinish l.b).1 } →
      bandWithPartialRow l = l → finishBand n (finishB n { l with state := .closing }) = bandFinished n l l := by
    intro finished same
    rw [finished]
    unfold finishBand bandFinished bandClosed finalBandSegment
    rw [same]
    by_cases closes : l.band.active = true ∧ l.band.rows ≠ []
    · rw [if_pos (by simpa using closes), if_pos closes, if_pos closes]
      rfl
    · rw [if_neg (by simpa using closes), if_neg closes, if_neg closes, ← fresh]
  cases emits : channelFinish l.b with
  | mk ch row =>
    cases row with
    | none =>
      refine unchanged ?_ (bandWithPartialRow_of_not (.inl (by rw [emits])))
      simp only [finishB, emits]
    | some r =>
      obtain ⟨i, row⟩ := r
      cases active : l.band.active with
      | false =>
        refine unchanged ?_ (bandWithPartialRow_of_not (.inr active))
        simp [finishB, emits, takeBRow, active]
      | true =>
        have taken := bandWithPartialRow_of_row (l := l) (by rw [emits]) active
        have closes : (bandWithPartialRow l).band.active = true ∧ (bandWithPartialRow l).band.rows ≠ [] := by
          rw [taken]
          exact ⟨active, by simp [rowTaken]⟩
        unfold bandFinished bandClosed finalBandSegment
        rw [if_pos closes, if_pos closes, taken]
        simp only [finishB, emits]
        rw [takeBRow_eq (by exact active)]
        by_cases fills : l.band.rows.length + 1 = l.snap.h
        · rw [if_pos fills, finishBand, if_neg (by simp [closeBand, bandAfterClose])]
          rfl
        · rw [if_neg fills]
          simp only [finishBand]
          rw [if_pos (by simp [rowTaken, active])]
          rfl

/-! ## The G rendition -/

/-- The lane `m` with the B rendition's part of the lane `x`. -/
def bandPart (x m : Lane) : Lane :=
  { m with
    state := x.state
    b := x.b
    band := x.band
    threshold := x.threshold
    coder := { m.coder with finalB := x.coder.finalB, bContext := x.coder.bContext }
    quality := x.quality }

/-- R91, R93: a row taken by an open group. -/
theorem takeGRow_open {tone : Vector Byte 256} {n : Fin 4} {i : Nat} {row : List Byte} {l : Lane}
    (isOpen : l.coder.groupOpen = true) :
    takeGRow tone n i row l =
      if l.coder.group.length + 1 = 4 then
        ({ l with coder := groupEmptied (groupAddRow tone l.coder i row) },
          some (groupSegment n { l with coder := groupAddRow tone l.coder i row }))
      else ({ l with coder := groupAddRow tone l.coder i row }, none) := by
  have size : (groupAddRow tone l.coder i row).group.length = l.coder.group.length + 1 := by simp [groupAddRow]
  rw [takeGRow, if_pos isOpen]
  simp only [size]

theorem takeGRow_fills {tone : Vector Byte 256} {n : Fin 4} {i : Nat} {row : List Byte} {l : Lane}
    (isOpen : l.coder.groupOpen = true) (fills : l.coder.group.length + 1 = 4) :
    takeGRow tone n i row l =
      ({ l with coder := groupEmptied (groupAddRow tone l.coder i row) },
        some (groupSegment n { l with coder := groupAddRow tone l.coder i row })) :=
  (takeGRow_open isOpen).trans (if_pos fills)

theorem takeGRow_more {tone : Vector Byte 256} {n : Fin 4} {i : Nat} {row : List Byte} {l : Lane}
    (isOpen : l.coder.groupOpen = true) (more : ¬l.coder.group.length + 1 = 4) :
    takeGRow tone n i row l = ({ l with coder := groupAddRow tone l.coder i row }, none) :=
  (takeGRow_open isOpen).trans (if_neg more)

theorem takeGRow_not_open {tone : Vector Byte 256} {n : Fin 4} {i : Nat} {row : List Byte} {l : Lane}
    (closed : ¬l.coder.groupOpen = true) : takeGRow tone n i row l = (l, none) := if_neg closed

/-- The G rendition reads and changes nothing of the B rendition's. -/
theorem takeGRow_bandPart (tone : Vector Byte 256) (n : Fin 4) (i : Nat) (row : List Byte) (x m : Lane) :
    takeGRow tone n i row (bandPart x m) =
      (bandPart x (takeGRow tone n i row m).1, (takeGRow tone n i row m).2) := by
  by_cases isOpen : m.coder.groupOpen = true
  · by_cases fills : m.coder.group.length + 1 = 4
    · rw [takeGRow_fills (l := bandPart x m) isOpen fills, takeGRow_fills isOpen fills]
      rfl
    · rw [takeGRow_more (l := bandPart x m) isOpen fills, takeGRow_more isOpen fills]
      rfl
  · rw [takeGRow_not_open (l := bandPart x m) isOpen, takeGRow_not_open isOpen]

theorem finishG_bandPart (tone : Vector Byte 256) (n : Fin 4) (x m : Lane) :
    finishG tone n (bandPart x m) = bandPart x (finishG tone n m) := by
  unfold finishG
  rw [show (bandPart x m).g = m.g from rfl]
  rcases channelFinish m.g with ⟨ch, _ | ⟨i, row⟩⟩
  · rfl
  · have taken := takeGRow_bandPart tone n i row x { m with g := ch }
    change takeGRow tone n i row { bandPart x m with g := ch } = _ at taken
    dsimp only
    rw [taken]
    rcases takeGRow tone n i row { m with g := ch } with ⟨m', _ | seg⟩ <;> rfl

theorem finishGroup_bandPart (n : Fin 4) (x m : Lane) : finishGroup n (bandPart x m) = bandPart x (finishGroup n m) := by
  unfold finishGroup bandPart
  dsimp only
  split <;> rfl

/-- The B rendition's closing work changes nothing of the G rendition's. -/
theorem finishBand_eq_bandPart (n : Fin 4) (l : Lane) : finishBand n l = bandPart (finishBand n l) l := by
  unfold finishBand
  split <;> rfl

theorem takeGRow_lane (tone : Vector Byte 256) (n : Fin 4) (i : Nat) (row : List Byte) (l : Lane) :
    ∃ group first prev, (takeGRow tone n i row l).1 =
      { l with coder := { l.coder with group := group, groupFirstRow := first, prevPacked := prev } } := by
  by_cases isOpen : l.coder.groupOpen = true
  · rw [takeGRow_open isOpen]
    split <;> exact ⟨_, _, _, rfl⟩
  · rw [takeGRow_not_open isOpen]
    exact ⟨_, _, _, rfl⟩

theorem finishG_lane (tone : Vector Byte 256) (n : Fin 4) (l : Lane) :
    ∃ g group first prev final, finishG tone n l =
      { l with
        g := g
        coder := { l.coder with group := group, groupFirstRow := first, prevPacked := prev, finalG := final } } := by
  unfold finishG
  rcases channelFinish l.g with ⟨ch, _ | ⟨i, row⟩⟩
  · exact ⟨_, _, _, _, _, rfl⟩
  · obtain ⟨group, first, prev, taken⟩ := takeGRow_lane tone n i row { l with g := ch }
    dsimp only
    rcases e : takeGRow tone n i row { l with g := ch } with ⟨m, _ | seg⟩
    all_goals
      rw [e] at taken
      dsimp only at taken ⊢
      rw [taken]
      exact ⟨_, _, _, _, _, rfl⟩

theorem finishBand_finishG (tone : Vector Byte 256) (n : Fin 4) (l : Lane) :
    finishBand n (finishG tone n l) = finishG tone n (finishBand n l) := by
  have outside : finishBand n (finishG tone n l) = bandPart (finishBand n l) (finishG tone n l) := by
    obtain ⟨g, group, first, prev, final, e⟩ := finishG_lane tone n l
    rw [e]
    unfold finishBand
    dsimp only
    split <;> rfl
  rw [outside, ← finishG_bandPart, ← finishBand_eq_bandPart]

/-- R18: the closing work, one rendition after the other. -/
theorem closingWork_eq (tone : Vector Byte 256) (n : Fin 4) {l : Lane} (fresh : l.coder.finalB = none) :
    closingWork tone n l = compose n (bandFinished n l (finishGroup n (finishG tone n l))) := by
  unfold closingWork
  rw [finishBand_finishG, finishBand_finishB n fresh]
  exact congrArg (compose n)
    (((congrArg _ (finishG_bandPart tone n (bandFinished n l l) l)).trans (finishGroup_bandPart n _ _)))

/-- R18 step 1: the lane with its channel's partial row in the group, and the segment of the group that it fills. -/
def groupWithPartialRow (tone : Vector Byte 256) (n : Fin 4) (l : Lane) : Lane × Option Segment :=
  match (channelFinish l.g).2 with
  | none => (l, none)
  | some (i, row) => takeGRow tone n i row l

/-- A row in the group leaves all but the group. -/
theorem groupWithPartialRow_lane (tone : Vector Byte 256) (n : Fin 4) (l : Lane) :
    ∃ group first prev, (groupWithPartialRow tone n l).1 =
      { l with coder := { l.coder with group := group, groupFirstRow := first, prevPacked := prev } } := by
  unfold groupWithPartialRow
  split
  · exact ⟨_, _, _, rfl⟩
  · exact takeGRow_lane ..

theorem finishG_eq (tone : Vector Byte 256) (n : Fin 4) {l : Lane} (fresh : l.coder.finalG = none) :
    finishG tone n l =
      { (groupWithPartialRow tone n l).1 with
        g := (channelFinish l.g).1
        coder := { (groupWithPartialRow tone n l).1.coder with finalG := (groupWithPartialRow tone n l).2 } } := by
  unfold finishG groupWithPartialRow
  rcases channelFinish l.g with ⟨ch, _ | ⟨i, row⟩⟩
  · rw [← fresh]
  · dsimp only
    by_cases isOpen : l.coder.groupOpen = true
    · by_cases fills : l.coder.group.length + 1 = 4
      · rw [takeGRow_fills (l := { l with g := ch }) isOpen fills, takeGRow_fills isOpen fills]
        rfl
      · rw [takeGRow_more (l := { l with g := ch }) isOpen fills, takeGRow_more isOpen fills]
        exact congrArg
          (fun f => ({ l with g := ch, coder := { groupAddRow tone l.coder i row with finalG := f } } : Lane)) fresh
    · rw [takeGRow_not_open (l := { l with g := ch }) isOpen, takeGRow_not_open isOpen]
      exact congrArg (fun f => ({ l with g := ch, coder := { l.coder with finalG := f } } : Lane)) fresh

/-- R93: a group that its row fills is empty again. -/
theorem groupWithPartialRow_filled {tone : Vector Byte 256} {n : Fin 4} {l : Lane}
    (fills : (groupWithPartialRow tone n l).2.isSome = true) : (groupWithPartialRow tone n l).1.coder.group = [] := by
  unfold groupWithPartialRow at fills ⊢
  split at fills
  · simp at fills
  · rename_i i row _
    by_cases isOpen : l.coder.groupOpen = true
    · rw [takeGRow_open isOpen] at fills ⊢
      split at fills
      · rw [if_pos ‹_›]
        rfl
      · simp at fills
    · simp [takeGRow_not_open isOpen] at fills

/-- R93: the rows held with the partial one make a final segment, in the group that it fills or in the one left. -/
theorem groupWithPartialRow_some {tone : Vector Byte 256} {n : Fin 4} {l : Lane} :
    ((groupWithPartialRow tone n l).2.isSome = true ∨
        l.coder.groupOpen = true ∧ (groupWithPartialRow tone n l).1.coder.group ≠ []) ↔
      l.coder.groupOpen = true ∧ (l.coder.group ≠ [] ∨ (channelFinish l.g).2.isSome = true) := by
  unfold groupWithPartialRow
  split
  case h_1 none => simp [none]
  case h_2 emits =>
    by_cases isOpen : l.coder.groupOpen = true
    · rw [takeGRow_open isOpen]
      split <;> simp [emits, isOpen, groupAddRow]
    · rw [takeGRow_not_open isOpen]
      simp [isOpen]

/-- R18 step 3: what the end of the group changes. -/
theorem finishGroup_lane (n : Fin 4) (l : Lane) (empty : l.coder.groupOpen = false → l.coder.group = []) :
    ∃ prev, finishGroup n l =
      { l with
        coder :=
          { l.coder with
            groupOpen := false
            group := []
            prevPacked := prev
            finalG :=
              if l.coder.groupOpen = true ∧ l.coder.group ≠ [] then some (groupSegment n l) else l.coder.finalG } } := by
  unfold finishGroup
  by_cases held : l.coder.groupOpen = true ∧ l.coder.group ≠ []
  · rw [if_pos (by simpa using held), if_pos held]
    exact ⟨_, rfl⟩
  · rw [if_neg (by simpa using held), if_neg held]
    have none : l.coder.group = [] := by
      by_cases isOpen : l.coder.groupOpen = true
      · exact not_not.1 fun some => held ⟨isOpen, some⟩
      · exact empty (by simpa using isOpen)
    exact ⟨l.coder.prevPacked, by rw [← none]⟩

/-- R18, R93, R96: the G rendition at the end of the closing work. -/
structure GroupFinished (tone : Vector Byte 256) (n : Fin 4) (l m : Lane) : Prop where
  lane : ∃ first prev final, m =
    { l with
      g := (channelFinish l.g).1
      coder :=
        { l.coder with groupOpen := false, group := [], groupFirstRow := first, prevPacked := prev, finalG := final } }
  final : m.coder.finalG =
    if (groupWithPartialRow tone n l).2.isSome then (groupWithPartialRow tone n l).2
    else (finishGroup n (groupWithPartialRow tone n l).1).coder.finalG
  some : m.coder.finalG.isSome = true ↔
    l.coder.groupOpen = true ∧ (l.coder.group ≠ [] ∨ (channelFinish l.g).2.isSome = true)

theorem groupFinished_finishGroup (tone : Vector Byte 256) (n : Fin 4) {l : Lane} (fresh : l.coder.finalG = none)
    (empty : l.coder.groupOpen = false → l.coder.group = []) :
    GroupFinished tone n l (finishGroup n (finishG tone n l)) := by
  obtain ⟨group, first, prev, taken⟩ := groupWithPartialRow_lane tone n l
  have closed : l.coder.groupOpen = false → group = [] := by
    intro off
    have e : (groupWithPartialRow tone n l).1.coder.group = group := by rw [taken]
    rw [← e]
    unfold groupWithPartialRow
    split
    · exact empty off
    · simpa [takeGRow, off] using empty off
  have filled := groupWithPartialRow_filled (tone := tone) (n := n) (l := l)
  have rows := groupWithPartialRow_some (tone := tone) (n := n) (l := l)
  rw [taken] at filled rows
  obtain ⟨after, e⟩ := finishGroup_lane n (finishG tone n l) (by rw [finishG_eq tone n fresh, taken]; exact closed)
  obtain ⟨_, rest⟩ := finishGroup_lane n (groupWithPartialRow tone n l).1 (by rw [taken]; exact closed)
  rw [finishG_eq tone n fresh, taken] at e
  rw [taken] at rest
  refine ⟨⟨first, after, if l.coder.groupOpen = true ∧ group ≠ [] then
      some (groupSegment n { l with
        g := (channelFinish l.g).1
        coder :=
          { l.coder with
            group := group
            groupFirstRow := first
            prevPacked := prev
            finalG := (groupWithPartialRow tone n l).2 } })
    else (groupWithPartialRow tone n l).2, ?_⟩, ?_, ?_⟩
  · rw [finishG_eq tone n fresh, taken, e]
  · rw [finishG_eq tone n fresh, taken, e, rest]
    dsimp only
    split
    case isTrue held =>
      have notFilled : ¬(groupWithPartialRow tone n l).2.isSome = true := fun fills => held.2 (filled fills)
      rw [if_neg notFilled]
      rfl
    case isFalse =>
      split
      · rfl
      · rename_i none
        rw [fresh]
        simpa using none
  · rw [finishG_eq tone n fresh, taken, e, ← rows]
    dsimp only
    split
    case isTrue held => simp [held]
    case isFalse none => simp only [none, or_false]

/-- R18: the rows held with the partial one make the final B segment. -/
theorem finalBandSegment_some {n : Fin 4} {l : Lane} :
    (finalBandSegment n l).isSome = true ↔
      l.band.active = true ∧ (l.band.rows ≠ [] ∨ (channelFinish l.b).2.isSome = true) := by
  have isSome : (finalBandSegment n l).isSome = true ↔
      (bandWithPartialRow l).band.active = true ∧ (bandWithPartialRow l).band.rows ≠ [] := by
    unfold finalBandSegment
    split <;> simp [*]
  rw [isSome]
  cases active : l.band.active with
  | false => simp [bandWithPartialRow_of_not (.inr active), active]
  | true =>
    cases emits : (channelFinish l.b).2 with
    | none => simp [bandWithPartialRow_of_not (.inl emits), active]
    | some r => simp [bandWithPartialRow_of_row emits active, rowTaken, active]

/-- Settles O22. -/
theorem closingWorkFinishesOutput : Obligations.ClosingWorkFinishesOutput := by
  intro tone n l _ freshB freshG _ _ noRows noGroup c rowB rowG finished band group closes
  have work : c = compose n (bandFinished n l (finishGroup n (finishG tone n l))) := closingWork_eq tone n freshB
  obtain ⟨⟨first, prev, final, lane⟩, finalG, someG⟩ := groupFinished_finishGroup tone n freshG noGroup
  rw [lane] at work finalG someG
  have emitsB := channelFinish_row l.b
  have emitsG := channelFinish_row l.g
  have someB := finalBandSegment_some (n := n) (l := l)
  rw [emitsB] at someB
  rw [emitsG] at someG
  have coder : c.coder.finalB = finalBandSegment n l ∧ c.coder.finalG = final := by rw [work]; exact ⟨rfl, rfl⟩
  have inB : c.b = (channelFinish l.b).1 := by rw [work]; rfl
  have inG : c.g = (channelFinish l.g).1 := by rw [work]; rfl
  refine ⟨by rw [work]; rfl, by rw [work]; rfl, by rw [work]; rfl, by rw [work]; rfl, by rw [work]; rfl, by rw [work]; rfl,
    inB ▸ channelFinish_inactive l.b, inG ▸ channelFinish_inactive l.g, by rw [work]; rfl, ?_, by rw [work]; rfl,
    by rw [work]; rfl, inB ▸ channelFinish_channel l.b, inG ▸ channelFinish_channel l.g,
    inB ▸ channelFinish_rowIndex l.b, inG ▸ channelFinish_rowIndex l.g, emitsB, emitsG, coder.1, by rw [work]; rfl,
    by rw [work]; rfl, coder.2.trans finalG, coder.1 ▸ someB, coder.2 ▸ someG⟩
  have rows := closingWork_closed tone n (l := l) ⟨noRows, noGroup⟩
  exact rows.2.1

end Sys2Proof.Machine
end

section
/-! SUPPORT. R44 to R50: the rows that a channel makes of an item's lines. -/

namespace Sys2Proof.Machine

/-! ## One line: the pixels of each span -/

theorem spanStart_mono (s e : Nat) {x y : Nat} (le : x ≤ y) : spanStart s e x ≤ spanStart s e y := by
  induction le with
  | refl => exact le_rfl
  | step _ ih => exact ih.trans (by rw [spanStart_succ]; omega)

/-- The sum of the pixels from place `lo` to before place `hi`. -/
def partSum (pixels : List Byte) (lo hi : Nat) : Nat := (((pixels.take hi).drop lo).map BitVec.toNat).sum

theorem partSum_nil (lo hi : Nat) : partSum [] lo hi = 0 := by simp [partSum]

theorem partSum_cons (g : Byte) (rest : List Byte) (lo hi base : Nat) :
    partSum (g :: rest) (lo - base) (hi - base) =
      (if lo ≤ base ∧ base < hi then g.toNat else 0) + partSum rest (lo - (base + 1)) (hi - (base + 1)) := by
  unfold partSum
  by_cases before : base < hi
  · obtain ⟨k, hk⟩ : ∃ k, hi - base = k + 1 := ⟨hi - base - 1, by omega⟩
    have hk' : hi - (base + 1) = k := by omega
    by_cases inside : lo ≤ base
    · have none : lo - base = 0 := by omega
      have none' : lo - (base + 1) = 0 := by omega
      simp [hk, hk', none, none', inside, before]
    · obtain ⟨j, hj⟩ : ∃ j, lo - base = j + 1 := ⟨lo - base - 1, by omega⟩
      have hj' : lo - (base + 1) = j := by omega
      simp [hk, hk', hj, hj', inside]
  · have none : hi - base = 0 := by omega
    have none' : hi - (base + 1) = 0 := by omega
    simp [none, none', before]

/-- R41: the period position after `x`'s. -/
theorem positionOf_succ (x : Nat) : positionOf (x + 1) = if positionOf x = 64 then 1 else positionOf x + 1 := by
  unfold positionOf
  split <;> omega

theorem modify_mapIdx (sums : List Nat) (x g : Nat) (f f' : Nat → Nat)
    (same : ∀ y, f y = (if y = x then g else 0) + f' y) :
    (sums.modify x (· + g)).mapIdx (fun y sum => sum + f' y) = sums.mapIdx fun y sum => sum + f y := by
  apply List.ext_getElem?
  intro y
  rw [List.getElem?_mapIdx, List.getElem?_mapIdx, List.getElem?_modify, same y]
  cases sums[y]? with
  | none => simp
  | some sum =>
    by_cases here : y = x
    · simp [here]; omega
    · simp [here, Ne.symm here]

/-- R44: the pixels that a channel takes go to the spans that they stand in. -/
theorem foldl_channelTake (pixels : List Byte) (ch : Channel) (active : ch.active = true) (wide : 1 ≤ ch.s)
    (position : ch.p = positionOf ch.x) (inside : ch.taken < spanOf ch.s ch.e ch.p) :
    ∃ x p taken, pixels.foldl (fun c v => channelTake v c) ch =
      { ch with
        x := x
        p := p
        taken := taken
        sums := ch.sums.mapIdx fun y sum =>
          sum + partSum pixels (spanStart ch.s ch.e y - (spanStart ch.s ch.e ch.x + ch.taken))
            (spanStart ch.s ch.e (y + 1) - (spanStart ch.s ch.e ch.x + ch.taken)) } := by
  induction pixels generalizing ch with
  | nil =>
    have unchanged : ch.sums.mapIdx (fun _ sum => sum) = ch.sums := List.ext_getElem (by simp) (by simp)
    refine ⟨ch.x, ch.p, ch.taken, ?_⟩
    simp [partSum_nil, unchanged]
  | cons g rest ih =>
    have here : ∀ y, (spanStart ch.s ch.e y ≤ spanStart ch.s ch.e ch.x + ch.taken ∧
        spanStart ch.s ch.e ch.x + ch.taken < spanStart ch.s ch.e (y + 1)) ↔ y = ch.x := by
      intro y
      have next := spanStart_succ ch.s ch.e ch.x
      rw [← position] at next
      constructor
      · rintro ⟨lo, hi⟩
        rcases Nat.lt_trichotomy y ch.x with lt | eq | gt
        · have := spanStart_mono ch.s ch.e (show y + 1 ≤ ch.x from lt)
          omega
        · exact eq
        · have := spanStart_mono ch.s ch.e (show ch.x + 1 ≤ y from gt)
          omega
      · rintro rfl
        omega
    have sums : ∀ y, partSum (g :: rest) (spanStart ch.s ch.e y - (spanStart ch.s ch.e ch.x + ch.taken))
          (spanStart ch.s ch.e (y + 1) - (spanStart ch.s ch.e ch.x + ch.taken)) =
        (if y = ch.x then g.toNat else 0) +
          partSum rest (spanStart ch.s ch.e y - (spanStart ch.s ch.e ch.x + ch.taken + 1))
            (spanStart ch.s ch.e (y + 1) - (spanStart ch.s ch.e ch.x + ch.taken + 1)) := by
      intro y
      rw [partSum_cons]
      simp only [here]
    have merged := modify_mapIdx ch.sums ch.x g.toNat _ _ sums
    rw [List.foldl_cons]
    by_cases fills : ch.taken + 1 = spanOf ch.s ch.e ch.p
    · have took : channelTake g ch =
          { ch with
            sums := ch.sums.modify ch.x (· + g.toNat)
            x := ch.x + 1
            p := if ch.p = 64 then 1 else ch.p + 1
            taken := 0 } := by
        simp [channelTake, active, channelPixel, fills]
      have base : spanStart ch.s ch.e (ch.x + 1) + 0 = spanStart ch.s ch.e ch.x + ch.taken + 1 := by
        rw [spanStart_succ, ← position, ← fills]; omega
      obtain ⟨x, p, taken, e⟩ := ih (channelTake g ch) (by rw [took]; exact active) (by rw [took]; exact wide)
        (by rw [took]; simp only [position]; rw [positionOf_succ])
        (by rw [took]; exact Nat.lt_of_lt_of_le wide (Nat.le_add_right ..))
      refine ⟨x, p, taken, e.trans ?_⟩
      rw [took]
      dsimp only
      rw [base, merged]
    · have took : channelTake g ch =
          { ch with sums := ch.sums.modify ch.x (· + g.toNat), taken := ch.taken + 1 } := by
        simp [channelTake, active, channelPixel, fills]
      obtain ⟨x, p, taken, e⟩ := ih (channelTake g ch) (by rw [took]; exact active) (by rw [took]; exact wide)
        (by rw [took]; exact position) (by rw [took]; dsimp only; omega)
      refine ⟨x, p, taken, e.trans ?_⟩
      rw [took]
      dsimp only
      rw [← Nat.add_assoc, merged]

/-! ## The rows -/

/-- R44, R48: the samples in a column of some lines, added up. -/
def columnSum (s e : Nat) (lines : List (List Byte)) (x : Nat) : Nat :=
  (lines.map fun line => partSum line (spanStart s e x) (spanStart s e (x + 1))).sum

/-- R44, R45: a channel of an item with the lines `merged` in the row `r` that it is building. -/
def channelMerging (s e v wIn r : Nat) (merged : List (List Byte)) : Channel :=
  { channelFor s e v wIn with
    sums := (List.range (widthRule wIn s e).1).map (columnSum s e merged)
    linesMerged := merged.length
    rowIndex := r }

theorem channelMerging_nil (s e v wIn r : Nat) :
    channelMerging s e v wIn r [] = { channelFor s e v wIn with rowIndex := r } := by
  have zero : columnSum s e [] = fun _ => 0 := by
    funext x
    simp [columnSum]
  simp only [channelMerging, zero, List.map_const', List.length_range, List.length_nil]
  rfl

/-- R45: a further line, given to the channel, with its end of line still to come. -/
theorem channelMerging_line {s e v wIn r : Nat} (merged : List (List Byte)) (line : List Byte) (wide : 1 ≤ s) :
    ∃ x p taken, line.foldl (fun c v => channelTake v c) (channelMerging s e v wIn r merged) =
      { channelMerging s e v wIn r (merged ++ [line]) with x := x, p := p, taken := taken, linesMerged := merged.length } := by
  obtain ⟨x, p, taken, e'⟩ := foldl_channelTake line (channelMerging s e v wIn r merged) rfl wide rfl
    (Nat.lt_of_lt_of_le wide (Nat.le_add_right ..))
  refine ⟨x, p, taken, e'.trans ?_⟩
  have sums : ((List.range (widthRule wIn s e).1).map (columnSum s e merged)).mapIdx (fun y sum =>
      sum + partSum line (spanStart s e y - (spanStart s e 0 + 0)) (spanStart s e (y + 1) - (spanStart s e 0 + 0))) =
      (List.range (widthRule wIn s e).1).map (columnSum s e (merged ++ [line])) := by
    have zero : spanStart s e 0 = 0 := rfl
    apply List.ext_getElem (by simp)
    intro y _ _
    simp [zero, columnSum]
  exact congrArg (fun sums => ({ channelMerging s e v wIn r merged with x := x, p := p, taken := taken, sums := sums } :
    Channel)) sums

/-- R48: the width of the span of output pixel `x`. -/
def columnWidth (s e wIn x : Nat) : Nat :=
  if x + 1 = (widthRule wIn s e).1 then (widthRule wIn s e).2 else spanOf s e (positionOf x)

/-- R42: the spans of a row lie within the line, the last one cut at its end. -/
theorem columnWidth_spec {s e wIn x : Nat} (wide : 1 ≤ s) (stretch : e ≤ 63) (nonempty : 1 ≤ wIn)
    (inside : x < (widthRule wIn s e).1) :
    spanStart s e x + columnWidth s e wIn x ≤ wIn ∧
      (columnWidth s e wIn x = spanOf s e (positionOf x) ∨
        spanStart s e x + columnWidth s e wIn x = wIn ∧ columnWidth s e wIn x ≤ spanOf s e (positionOf x)) := by
  obtain ⟨_, _, _, cut, covers⟩ := widthRuleCoversLine wIn s e wide stretch nonempty
  change spanStart s e ((widthRule wIn s e).1 - 1) + (widthRule wIn s e).2 = wIn at covers
  unfold columnWidth
  split
  case isTrue last =>
    have x_eq : (widthRule wIn s e).1 - 1 = x := by omega
    rw [x_eq] at covers cut
    exact ⟨covers.le, .inr ⟨covers, cut⟩⟩
  case isFalse notLast =>
    have before := spanStart_mono s e (show x + 1 ≤ (widthRule wIn s e).1 - 1 by omega)
    rw [spanStart_succ] at before
    exact ⟨by omega, .inl rfl⟩

/-- R44: the samples of a span in one line. -/
theorem take_columnWidth {s e wIn x : Nat} (wide : 1 ≤ s) (stretch : e ≤ 63) (nonempty : 1 ≤ wIn)
    (inside : x < (widthRule wIn s e).1) {line : List Byte} (full : line.length = wIn) :
    ((line.drop (spanStart s e x)).take (columnWidth s e wIn x)).length = columnWidth s e wIn x ∧
      (((line.drop (spanStart s e x)).take (columnWidth s e wIn x)).map BitVec.toNat).sum =
        partSum line (spanStart s e x) (spanStart s e (x + 1)) := by
  obtain ⟨fits, width⟩ := columnWidth_spec wide stretch nonempty inside
  refine ⟨by simp; omega, ?_⟩
  have same : (line.take (spanStart s e (x + 1))).drop (spanStart s e x) =
      (line.drop (spanStart s e x)).take (columnWidth s e wIn x) := by
    rw [List.drop_take, spanStart_succ, Nat.add_sub_cancel_left]
    rcases width with whole | ⟨ends, cut⟩
    · rw [whole]
    · rw [List.take_of_length_le (i := columnWidth s e wIn x) (by simp; omega), List.take_of_length_le (by simp; omega)]
  rw [partSum, same]

/-- R48: the samples of a row's pixel, their sum and their number. -/
theorem samples_columns {s e wIn x : Nat} (wide : 1 ≤ s) (stretch : e ≤ 63) (nonempty : 1 ≤ wIn)
    (inside : x < (widthRule wIn s e).1) {lines : List (List Byte)} (full : ∀ line ∈ lines, line.length = wIn) :
    (lines.flatMap fun line => ((line.drop (spanStart s e x)).take (columnWidth s e wIn x)).map BitVec.toNat).sum =
        columnSum s e lines x ∧
      (lines.flatMap fun line => ((line.drop (spanStart s e x)).take (columnWidth s e wIn x)).map BitVec.toNat).length =
        columnWidth s e wIn x * lines.length := by
  induction lines with
  | nil => simp [columnSum]
  | cons line rest ih =>
    obtain ⟨sum, length⟩ := ih fun l mem => full l (.tail _ mem)
    obtain ⟨lineLength, lineSum⟩ := take_columnWidth wide stretch nonempty inside (full line (.head _))
    rw [List.flatMap_cons, List.sum_append, List.length_append, sum, length, List.length_map, lineLength, lineSum]
    refine ⟨by simp [columnSum], ?_⟩
    rw [List.length_cons]
    ring

/-- R48: a row of an item, from the lines that it spans. -/
def rowOfLines (s e wIn : Nat) (lines : List (List Byte)) : List Byte :=
  (List.range (widthRule wIn s e).1).map fun x =>
    meanOf (lines.flatMap fun line => ((line.drop (spanStart s e x)).take (columnWidth s e wIn x)).map BitVec.toNat)

theorem rowValues_channelMerging {s e v wIn r : Nat} (wide : 1 ≤ s) (stretch : e ≤ 63) (nonempty : 1 ≤ wIn)
    {merged : List (List Byte)} (full : ∀ line ∈ merged, line.length = wIn) :
    rowValues (channelMerging s e v wIn r merged) = rowOfLines s e wIn merged := by
  unfold rowValues rowOfLines
  apply List.ext_getElem (by simp [channelMerging])
  intro x hx _
  have inside : x < (widthRule wIn s e).1 := by simpa [channelMerging] using hx
  obtain ⟨sum, length⟩ := samples_columns wide stretch nonempty inside full
  simp only [List.getElem_mapIdx, List.getElem_map, List.getElem_range, meanOf, sum, length]
  simp only [channelMerging, List.getElem_map, List.getElem_range]
  rfl

/-! ## The lines of each row -/

theorem rowLines_snd (v i : Nat) : (rowLines v i).2 = verticalSpan v i := by
  unfold rowLines verticalSpan
  rcases Nat.mod_two_eq_zero_or_one v with even | odd
  · simp [even]
  · rcases Nat.mod_two_eq_zero_or_one i with evenRow | oddRow
    · simp [odd, evenRow]; omega
    · simp [odd, oddRow]; omega

theorem verticalSpan_pos (v i : Nat) : 0 < verticalSpan v i := by
  unfold verticalSpan
  split <;> [skip; split] <;> omega

theorem rowLines_zero (v : Nat) : (rowLines v 0).1 = 0 := by
  unfold rowLines
  split <;> simp

/-- R46: a row begins where the one before it ends. -/
theorem rowLines_succ (v i : Nat) : (rowLines v (i + 1)).1 = (rowLines v i).1 + verticalSpan v i := by
  rw [← rowLines_snd]
  unfold rowLines
  rcases Nat.mod_two_eq_zero_or_one v with even | odd
  · simp [even]
    ring
  · rcases Nat.mod_two_eq_zero_or_one i with evenRow | oddRow
    · have half : (i + 1) / 2 = i / 2 := by omega
      have next : (i + 1) % 2 = 1 := by omega
      simp [odd, evenRow, half, next]
    · have half : (i + 1) / 2 = i / 2 + 1 := by omega
      have next : (i + 1) % 2 = 0 := by omega
      simp only [odd, oddRow, half, next]
      simp
      ring

theorem rowLines_mono (v : Nat) : StrictMono fun i => (rowLines v i).1 :=
  strictMono_nat_of_lt_succ fun i => by
    have := verticalSpan_pos v i
    simp only [rowLines_succ]
    omega

/-- R46: so many lines make so many rows, the last one perhaps partial. -/
structure RowCount (v lines rows : Nat) : Prop where
  covers : lines ≤ (rowLines v rows).1
  needs  : ∀ i < rows, (rowLines v i).1 < lines

theorem channelFinish_emits {ch : Channel} (active : ch.active = true) :
    (channelFinish ch).2 = if 0 < ch.linesMerged then some (ch.rowIndex, rowValues ch) else none := by
  rw [channelFinish, if_pos active]
  split <;> rfl

theorem channelLine_active {ch : Channel} (active : ch.active = true) : channelLine ch = channelEndLine ch := if_pos active

/-- R45: the end of a line that leaves the channel with the row `m`. -/
theorem channelEndLine_eq {ch m : Channel}
    (merges : { ch with x := 0, p := 1, taken := 0, linesMerged := ch.linesMerged + 1 } = m) :
    channelEndLine ch =
      if m.linesMerged = verticalSpan m.v m.rowIndex then (channelAfterRow m, some (m.rowIndex, rowValues m))
      else (m, none) := by
  subst merges
  rfl

/-- R45, R49, R50: what a channel emits from the middle of an item on. -/
theorem rowsEmitted_channelMerging {s e v wIn : Nat} (wide : 1 ≤ s) (stretch : e ≤ 63) (nonempty : 1 ≤ wIn)
    (all : List (List Byte)) (full : ∀ line ∈ all, line.length = wIn) {count : Nat} (rows : RowCount v all.length count)
    (lines merged before : List (List Byte)) (r : Nat) (split : all = before ++ merged ++ lines)
    (begun : before.length = (rowLines v r).1) (building : merged.length < verticalSpan v r) :
    rowsEmitted (channelMerging s e v wIn r merged) lines =
      (List.range' r (count - r)).map fun i =>
        (i, rowOfLines s e wIn ((all.drop (rowLines v i).1).take (verticalSpan v i))) := by
  have fullRow : ∀ ls : List (List Byte), (∀ l ∈ ls, l ∈ all) → ∀ line ∈ ls, line.length = wIn :=
    fun ls sub line mem => full line (sub line mem)
  have size : all.length = (rowLines v r).1 + merged.length + lines.length := by
    rw [split, List.length_append, List.length_append, begun]
  have dropped : all.drop (rowLines v r).1 = merged ++ lines := by
    rw [split, List.append_assoc, ← begun, List.drop_left]
  induction lines generalizing merged before r with
  | nil =>
    rw [List.length_nil, add_zero] at size
    rw [List.append_nil] at dropped
    have values := rowValues_channelMerging (v := v) (r := r) wide stretch nonempty
      (fullRow merged fun l mem => split ▸ List.mem_append_left _ (List.mem_append_right _ mem))
    by_cases none : merged.length = 0
    · have done : count - r = 0 := by
        by_contra more
        have := rows.needs r (by omega)
        omega
      have emits : (channelFinish (channelMerging s e v wIn r merged)).2 = .none :=
        (channelFinish_emits rfl).trans (if_neg (show ¬0 < merged.length by omega))
      simp [rowsEmitted, emits, done]
    · have one : count - r = 1 := by
        have below : r < count := by
          by_contra notBelow
          have upTo := (rowLines_mono v).monotone (Nat.not_lt.1 notBelow)
          have := rows.covers
          omega
        have last : ¬r + 1 < count := by
          intro more
          have := rows.needs (r + 1) more
          rw [rowLines_succ] at this
          omega
        omega
      have emits : (channelFinish (channelMerging s e v wIn r merged)).2 =
          some (r, rowValues (channelMerging s e v wIn r merged)) :=
        (channelFinish_emits rfl).trans (if_pos (Nat.pos_of_ne_zero none))
      rw [rowsEmitted, emits, one, values]
      simp [dropped, List.take_of_length_le building.le]
  | cons line rest ih =>
    obtain ⟨x, p, taken, took⟩ := channelMerging_line (s := s) (e := e) (v := v) (wIn := wIn) (r := r) merged line wide
    have signal : channelLine (line.foldl (fun c v => channelTake v c) (channelMerging s e v wIn r merged)) =
        if merged.length + 1 = verticalSpan v r then
          (channelMerging s e v wIn (r + 1) [],
            some (r, rowValues (channelMerging s e v wIn r (merged ++ [line]))))
        else (channelMerging s e v wIn r (merged ++ [line]), none) := by
      have merges : ({ channelMerging s e v wIn r (merged ++ [line]) with
          x := 0, p := 1, taken := 0, linesMerged := merged.length + 1 } : Channel) =
          channelMerging s e v wIn r (merged ++ [line]) := by
        simp only [channelMerging, List.length_append, List.length_singleton]
        rfl
      rw [took, channelLine_active rfl, channelEndLine_eq merges]
      change (if (merged ++ [line]).length = verticalSpan v r then _ else _) = _
      rw [List.length_append, List.length_singleton, channelMerging_nil]
      rfl
    rw [rowsEmitted, signal]
    by_cases fills : merged.length + 1 = verticalSpan v r
    · rw [if_pos fills]
      have values := rowValues_channelMerging (v := v) (r := r) wide stretch nonempty
        (fullRow (merged ++ [line]) fun l mem => by
          rw [split]
          simp only [List.mem_append, List.mem_cons] at mem ⊢
          tauto)
      have below : r < count := by
        by_contra notBelow
        have upTo := (rowLines_mono v).monotone (Nat.not_lt.1 notBelow)
        have := rows.covers
        rw [List.length_cons] at size
        omega
      have ends : (before ++ merged ++ [line]).length = (rowLines v (r + 1)).1 := by
        rw [List.length_append, List.length_append, begun, rowLines_succ, ← fills]
        rfl
      have later := ih [] (before ++ merged ++ [line]) (r + 1) (by rw [split]; simp) ends (verticalSpan_pos v _)
        (by rw [rowLines_succ, ← fills, size]; simp; omega)
        (by rw [← ends, split]; simp)
      have range : List.range' r (count - r) = r :: List.range' (r + 1) (count - (r + 1)) := by
        rw [← List.range'_succ]
        congr 1
        omega
      rw [later, range, List.map_cons, dropped, values, ← fills]
      have taken : (merged ++ line :: rest).take (merged.length + 1) = merged ++ [line] := by
        rw [List.take_append]
        simp
      rw [taken]
      rfl
    · rw [if_neg fills]
      exact ih (merged ++ [line]) before r (by rw [split]; simp) begun (by simp; omega) (by rw [size]; simp; omega)
        (by rw [dropped]; simp)

/-- R45, R49, R50: what a channel emits for an item's lines. -/
theorem rowsEmitted_item {s e v wIn : Nat} (wide : 1 ≤ s) (stretch : e ≤ 63) (nonempty : 1 ≤ wIn)
    {lines : List (List Byte)} (full : ∀ line ∈ lines, line.length = wIn) {count : Nat}
    (rows : RowCount v lines.length count) :
    rowsEmitted (channelFor s e v wIn) lines =
      (List.range count).map fun i =>
        (i, rowOfLines s e wIn ((lines.drop (rowLines v i).1).take (verticalSpan v i))) := by
  have all := rowsEmitted_channelMerging wide stretch nonempty lines full rows lines [] [] 0 (by simp)
    (rowLines_zero v).symm (verticalSpan_pos v 0)
  rwa [channelMerging_nil, Nat.sub_zero, ← List.range_eq_range'] at all

/-- R46: with V even each row spans k lines. -/
theorem rowCount_even {v lines : Nat} (even : v % 2 = 0) :
    RowCount v lines ((lines + (1 + v / 2) - 1) / (1 + v / 2)) := by
  have start : ∀ i, (rowLines v i).1 = (1 + v / 2) * i := by simp [rowLines, even]
  have pos : 0 < 1 + v / 2 := by omega
  generalize 1 + v / 2 = k at start pos
  constructor
  · rw [start]
    have := Nat.lt_mul_div_succ (lines + k - 1) pos
    rw [Nat.mul_succ] at this
    omega
  · intro i below
    rw [start]
    have := (Nat.le_div_iff_mul_le pos).1 (Nat.succ_le_of_lt below)
    rw [Nat.succ_mul, mul_comm] at this
    omega

/-- R46: with V odd rows of k + 1 and of k lines alternate. -/
theorem rowCount_odd {v lines : Nat} (odd : v % 2 = 1) :
    (let k := 1 + v / 2
     let u := lines % (2 * k + 1)
     RowCount v lines (2 * (lines / (2 * k + 1)) + (if u = 0 then 0 else if u ≤ k + 1 then 1 else 2))) := by
  intro k u
  have start : ∀ i, (rowLines v i).1 = i / 2 * (2 * k + 1) + i % 2 * (k + 1) := by simp [rowLines, odd, k]
  have even : ∀ j, (rowLines v (2 * j)).1 = j * (2 * k + 1) := by
    intro j
    simp [start]
  have between : ∀ j, (rowLines v (2 * j + 1)).1 = j * (2 * k + 1) + (k + 1) := by
    intro j
    have half : (2 * j + 1) / 2 = j := by omega
    have rest : (2 * j + 1) % 2 = 1 := by omega
    rw [start, half, rest, one_mul]
  have whole : lines / (2 * k + 1) * (2 * k + 1) + u = lines := Nat.div_add_mod' lines (2 * k + 1)
  have small : u < 2 * k + 1 := Nat.mod_lt _ (by omega)
  generalize lines / (2 * k + 1) = j at whole
  have last : ∀ {rows : Nat}, (rowLines v rows).1 < lines → ∀ i < rows + 1, (rowLines v i).1 < lines :=
    fun below i lt => ((rowLines_mono v).monotone (Nat.le_of_lt_succ lt)).trans_lt below
  by_cases none : u = 0
  · rw [if_pos none]
    refine ⟨by rw [add_zero, even]; omega, fun i lt => ?_⟩
    have := rowLines_mono v lt
    dsimp only at this
    rw [add_zero, even] at this
    omega
  · by_cases one : u ≤ k + 1
    · rw [if_neg none, if_pos one]
      exact ⟨by rw [between]; omega, last (by rw [even]; omega)⟩
    · rw [if_neg none, if_neg one]
      have next := even (j + 1)
      rw [show 2 * (j + 1) = 2 * j + 2 by ring, add_mul, one_mul] at next
      exact ⟨by rw [next]; omega, last (by rw [between]; omega)⟩

/-- Settles O51: a span's pixels go to its column, and a row's lines are merged before its end of line emits it. -/
theorem rowsOfItem : Obligations.RowsOfItem := by
  intro s e v wIn lines wide stretch nonempty full emitted k
  have rows : ∀ {count}, RowCount v lines.length count → emitted.length = count ∧
      emitted = (List.range emitted.length).map fun i =>
        (i, (List.range (widthRule wIn s e).1).map fun x => meanOf (samplesOf s e v wIn lines i x)) := by
    intro count counts
    have all : emitted = _ := rowsEmitted_item wide stretch nonempty full counts
    have length : emitted.length = count := by rw [all]; simp
    refine ⟨length, ?_⟩
    rw [length]
    refine all.trans (List.map_congr_left fun i _ => ?_)
    rw [← rowLines_snd]
    rfl
  rcases Nat.mod_two_eq_zero_or_one v with even | odd
  · have counted := rows (rowCount_even even)
    exact ⟨fun _ => counted.1, fun odd => absurd (even.symm.trans odd) (by decide), counted.2⟩
  · have counted := rows (rowCount_odd odd)
    exact ⟨fun even => absurd (even.symm.trans odd) (by decide), fun _ => counted.1, counted.2⟩

end Sys2Proof.Machine
end

section
/-! SUPPORT. Whole image units, one obligation each: an ITEM OPEN opens an item, is refused, supersedes or is held; strays;
a part with straps 31; LINEs and ITEM CLOSEs (R2 to R14). -/

namespace Sys2Proof.Machine

variable {s : State} {n : Fin 4}

/-! ## The check of an ITEM OPEN (R3 to R5) -/

@[simp] theorem withTaking_withTaking (x y : Taking) (l : Lane) : withTaking x (withTaking y l) = withTaking x l := rfl

theorem withTaking_self {l : Lane} {x : Taking} (h : l.taking = x) : withTaking x l = l := by subst h; rfl

theorem withTaking_discardItem (x : Taking) (h : ItemHeader) (reason : Reason) (l : Lane) :
    withTaking x (discardItem h reason l) = withTaking x (discardedLane h reason l) := rfl

/-- R3, R5: a header that the lane refuses. -/
theorem State.checkOpen_refused {data : List DataByte} (x : Taking) (hr : headerRefused data) :
    (s.checkOpen n ((data.map dataByteSymbol).take 10)).setLane n
        (withTaking x ((s.checkOpen n ((data.map dataByteSymbol).take 10)).lane n)) =
      s.setLane n (withTaking x (discardedLane (receivedHeader data) .badHeader (s.lane n))) := by
  have hb := (badHeader_iff data).2 hr
  simp only [State.checkOpen, headerOf_received, hb, if_true, State.setLane_lane_same, State.setLane_setLane,
    withTaking_discardItem]

/-- R3, R5: a good header that names a profile that is not valid. -/
theorem State.checkOpen_noProfile {data : List DataByte} (x : Taking) (hr : ¬headerRefused data)
    (hv : s.tables.profiles[Fin.ofNat 16 (receivedHeader data).profile.toNat].valid = false) :
    (s.checkOpen n ((data.map dataByteSymbol).take 10)).setLane n
        (withTaking x ((s.checkOpen n ((data.map dataByteSymbol).take 10)).lane n)) =
      s.setLane n (withTaking x (discardedLane (receivedHeader data) .noProfile (s.lane n))) := by
  have hb : ¬badHeader ((data.map dataByteSymbol).take 10) (receivedHeader data) = true := mt (badHeader_iff data).1 hr
  simp only [State.checkOpen, headerOf_received, hb, if_false, hv, Bool.false_eq_true, State.setLane_lane_same,
    State.setLane_setLane, withTaking_discardItem]

theorem State.itemOpened_eq (h : ItemHeader) (r : Record) (x : Taking) :
    s.itemOpened n h r x =
      { s with
        lanes :=
          s.lanes.set n
            (withTaking x
              (openedLane h r (itemWidthB r h.wIn.toNat) (itemWidthG r h.wIn.toNat) (itemGrant r h.wIn.toNat s.pool)
                (s.lane n)))
        pool := s.pool - (itemGrant r h.wIn.toNat s.pool).getD 0 * itemWidthB r h.wIn.toNat
        tables := if r.gEnable = 1 then raiseInUse s.tables (recordTone r) else s.tables } := rfl

theorem withTaking_openItem (x : Taking) (h : ItemHeader) (r : Record) (free : Nat) (l : Lane) :
    withTaking x (openItem h r free l) =
      withTaking x
        (openedLane h r (itemWidthB r h.wIn.toNat) (itemWidthG r h.wIn.toNat) (itemGrant r h.wIn.toNat free) l) := by
  have e := congrArg (withTaking x) (openItem_openedLane h r free l)
  exact e

/-- R4: the state after an item opens, the lane then taking `x`. -/
theorem State.openItem_itemOpened (x : Taking) (h : ItemHeader) (r : Record) :
    (let l := openItem h r s.pool (s.lane n)
     let t := ((s.setLane n l).withPool (s.pool - allocation l)).raiseTone l.snap
     t.setLane n (withTaking x (t.lane n))) = s.itemOpened n h r x := by
  have hg : (openItem h r s.pool (s.lane n)).snap.gActive = decide (r.gEnable = 1) := rfl
  have hk : recordTone (snapRecord (openItem h r s.pool (s.lane n)).snap) = recordTone r := rfl
  dsimp only
  rw [allocation_openItem, State.itemOpened_eq, ← withTaking_openItem, State.raiseTone, hg, hk]
  by_cases hon : r.gEnable = 1
  · rw [if_pos (decide_eq_true hon), if_pos hon]
    simp only [State.withTables_lane, State.withPool_lane, State.setLane_lane_same]
    simp only [State.setLane, State.withPool, State.withTables, Vector.set_set]
  · rw [if_neg (by simpa using hon), if_neg hon]
    simp only [State.withPool_lane, State.setLane_lane_same]
    simp only [State.setLane, State.withPool, Vector.set_set]

/-- R3, R4: a good header that names a valid profile. -/
theorem State.checkOpen_opens {data : List DataByte} (x : Taking) (hr : ¬headerRefused data)
    (hv : s.tables.profiles[Fin.ofNat 16 (receivedHeader data).profile.toNat].valid = true) :
    (s.checkOpen n ((data.map dataByteSymbol).take 10)).setLane n
        (withTaking x ((s.checkOpen n ((data.map dataByteSymbol).take 10)).lane n)) =
      s.itemOpened n (receivedHeader data)
        s.tables.profiles[Fin.ofNat 16 (receivedHeader data).profile.toNat].record x := by
  have hb : ¬badHeader ((data.map dataByteSymbol).take 10) (receivedHeader data) = true := mt (badHeader_iff data).1 hr
  rw [← State.openItem_itemOpened]
  simp only [State.checkOpen, headerOf_received, hb, hv, if_true]
  rfl

/-- R2, R3: a whole ITEM OPEN that an IDLE lane takes is checked on its first ten data symbols. -/
theorem State.arriveImage_open (h : s.linkIdle) (ha : s.partAddress ≠ 31) (hboot : s.req.bootRunning = none)
    (hidle : (s.lane n).state = .idle) {u : ImageUnit} (hw : wholeImage u) {d : DataByte} {ds : List DataByte}
    (hd : u.data = d :: ds) (hb : d.bad = false) (hn : d.value.toNat = n.val) :
    s.arriveImage kindItemOpen u =
      (s.checkOpen n ((u.data.map dataByteSymbol).take 10)).setLane n
        (withTaking .none ((s.checkOpen n ((u.data.map dataByteSymbol).take 10)).lane n)) := by
  have hbegin : s.beginImage kindItemOpen n (dataByteSymbol d) =
      s.setLane n { s.lane n with taking := .header [dataByteSymbol d] } :=
    (if_neg (fun e => absurd e.1 (by decide))).trans (by simp [takeImage])
  rw [State.arriveImage_taken (.inl rfl) h ha u hw d ds hd hb hn (fun _ => hboot) (by simp [laneRefuses, hidle])
      (by simp [isStray]), hbegin,
    State.laneData_header _ _ _ [dataByteSymbol d] (by simp) (by simp), State.setLane_checkOpen, hd]
  rfl

/-- Settles O10: the header check passes and names a valid profile, and the opened lane is the one stated. -/
theorem itemOpenOpensItem : Obligations.ItemOpenOpensItem := by
  intro s n u d ds h ha hboot hidle hw hd hb hn hr hv
  refine congrArg Host.Outcome.next ?_
  rw [State.arriveImage_open h ha hboot hidle hw hd hb hn]
  exact State.checkOpen_opens .none hr hv

/-- Settles O11: the two refusals of the header check. -/
theorem itemOpenRefusedDiscards : Obligations.ItemOpenRefusedDiscards := by
  intro s n u d ds h ha hboot hidle hw hd hb hn
  have e := State.arriveImage_open h ha hboot hidle hw hd hb hn
  exact ⟨fun hr => congrArg Host.Outcome.next (e.trans (State.checkOpen_refused .none hr)),
    fun hr hv => congrArg Host.Outcome.next (e.trans (State.checkOpen_noProfile .none hr hv))⟩

/-! ## Superseding and holding (R2, R7, R8, R141) -/

theorem State.supersede_itemEnds (h : (s.lane n).state = .opened ∨ (s.lane n).state = .discard) :
    s.supersede n = s.itemEnds n { s.lane n with flags := { (s.lane n).flags with superseded := true } } :=
  State.setLane_closeLane s n _ h

/-- R19: a lane whose closing output is tested for room is IDLE or waits in CLOSING. -/
theorem State.closingTested_state (c : Lane) (h : c.state = .closing) :
    ((s.closingTested n c).lane n).state = .idle ∨ ((s.closingTested n c).lane n).state = .closing := by
  unfold State.closingTested
  dsimp only
  split
  · exact .inl (by simp [State.lane])
  · exact .inr (by rw [State.setLane_lane_same]; exact h)

theorem State.itemEnds_state {l : Lane} (h : l.state = .opened ∨ l.state = .discard) :
    ((s.itemEnds n l).lane n).state = .idle ∨ ((s.itemEnds n l).lane n).state = .closing := by
  have hc := enterClosing_composed s.tables.tones[l.coder.gTable] n l h
  exact State.closingTested_state _ (hc.2.2 ▸ hc.1)

/-- Settles O12: the supersede leaves the lane IDLE, which then takes the unit, or in CLOSING, for which it is held. -/
theorem itemOpenSupersedes : Obligations.ItemOpenSupersedes := by
  intro s n u d ds h ha hboot hs hw hd hb hn t
  have ht : s.supersede n = t := State.supersede_itemEnds hs
  have hc : (s.lane n).state ≠ .closing := by rcases hs with e | e <;> simp [e]
  have hi : (s.lane n).state ≠ .idle := by rcases hs with e | e <;> simp [e]
  constructor
  · intro hidle
    refine congrArg Host.Outcome.next ?_
    rw [← ht] at hidle ⊢
    exact State.arriveImage_superseded h ha u hw d ds hd hb hn hboot hs hidle
  · intro hidle
    have hclosing := State.itemEnds_state (s := s) (n := n)
      (l := { s.lane n with flags := { (s.lane n).flags with superseded := true } }) hs
    refine ⟨hclosing.resolve_left hidle, congrArg Host.Outcome.next ?_⟩
    have href : laneRefuses kindItemOpen (s.lane n) = true := by simp [laneRefuses, hi]
    rw [State.arriveImage_held (.inl rfl) h ha u hw d ds hd hb hn (.inl ⟨href, .inr hboot⟩)
      (fun _ _ => by rw [ht]; exact hidle)]
    have hrefuse : s.refuseImage n = t := (if_neg (by simp [hc, hboot])).trans ht
    rw [hrefuse, ← ht, State.withHold, (LaneFrame.supersede n s).lrx]
    rfl

/-- R168: the commands of the image units and their kinds. -/
theorem exec_image {u : ImageUnit} {c : Instr} {kind : BitVec 3}
    (hc : (c, kind) ∈ [(Instr.itemOpen u, (0 : BitVec 3)), (.line u, 1), (.itemClose u, 2)]) (s : State) :
    imageKind kind ∧ exec c s = .next (s.arriveImage kind u) := by
  simp only [List.mem_cons, Prod.mk.injEq, List.not_mem_nil, or_false] at hc
  rcases hc with ⟨rfl, rfl⟩ | ⟨rfl, rfl⟩ | ⟨rfl, rfl⟩
  · exact ⟨.inl rfl, rfl⟩
  · exact ⟨.inr (.inl rfl), rfl⟩
  · exact ⟨.inr (.inr rfl), rfl⟩

/-- Settles O13: a refusal that supersedes nothing leaves the lane as it stands. -/
theorem imageUnitHeld : Obligations.ImageUnitHeld := by
  intro s n u d ds c kind hc h ha hw hd hb hn hr
  obtain ⟨hk, he⟩ := exec_image hc s
  rw [he]
  refine congrArg Host.Outcome.next ?_
  have hrefuse : s.refuseImage n = s := if_pos (hr.imp_right And.right)
  have hheld : laneRefuses kind (s.lane n) = true ∧ ((s.lane n).state = .closing ∨ s.req.bootRunning = none) ∨
      (kind = kindItemOpen ∧ s.req.bootRunning.isSome) :=
    hr.imp (fun e => ⟨by simp [laneRefuses, e], .inl e⟩) id
  have hnot : (s.lane n).state ≠ .closing → s.req.bootRunning = none → ((s.supersede n).lane n).state ≠ .idle := by
    intro h1 h2
    rcases hr with e | ⟨-, e⟩
    · exact absurd e h1
    · simp [h2] at e
  rw [State.arriveImage_held hk h ha u hw d ds hd hb hn hheld hnot, hrefuse]
  rfl

/-- Settles O14: what makes a unit a stray, read off its data symbols. -/
theorem strayUnitCounted : Obligations.StrayUnitCounted := by
  intro s u c kind hc h ha hw hs
  obtain ⟨hk, he⟩ := exec_image hc s
  rw [he]
  refine congrArg Host.Outcome.next (State.arriveImage_stray hk h ha u hw ?_)
  cases hd : u.data with
  | nil => rfl
  | cons d ds =>
    rw [hd] at hs
    simp only [straySyms, Bool.or_eq_true, decide_eq_true_eq, or_assoc]
    refine hs.imp_right (Or.imp_right fun ⟨hk0, hidle⟩ => ?_)
    have hkind : (kind != kindItemOpen) = true := bne_iff_ne.2 hk0
    rw [isStray, hidle, hkind]
    rfl

/-- The first `k` symbols of a list, the last of them marked. -/
theorem mapIdx_marked (syms : List Symbol) {k : Nat} (h0 : 1 ≤ k) (hk : k ≤ syms.length) :
    ((syms.take k).mapIdx fun i y => (⟨y, true && decide (i + 1 = k)⟩ : TransitSymbol)) =
      ((syms.take (k - 1)).map fun y => ⟨y, false⟩) ++ (syms[k - 1]?.toList.map fun y => ⟨y, true⟩) := by
  obtain ⟨j, rfl⟩ : ∃ j, k = j + 1 := ⟨k - 1, by omega⟩
  have hj : j < syms.length := hk
  have hlen : (syms.take j).length = j := by simp; omega
  rw [List.take_add_one, List.mapIdx_append, hlen]
  simp only [Nat.add_sub_cancel, List.getElem?_eq_getElem hj, Option.toList_some, List.map_singleton]
  congr 1
  · apply List.ext_getElem (by simp)
    intro i h1 h2
    have : i < j := by simp at h1; omega
    simp; omega
  · simp

theorem mapIdx_unmarked (syms : List Symbol) (k : Nat) :
    (syms.mapIdx fun i y => (⟨y, false && decide (i + 1 = k)⟩ : TransitSymbol)) = syms.map fun y => ⟨y, false⟩ := by
  apply List.ext_getElem (by simp)
  intro i h1 h2
  simp

/-- Settles O15: every image unit is a transit unit for a part with straps 31. -/
theorem addressThirtyOneForwardsImages : Obligations.AddressThirtyOneForwardsImages := by
  intro s u c kind hc h ha hw
  obtain ⟨hk, he⟩ := exec_image hc s
  have hsyms : imageSymbols kind broadcastAddress u =
      tagSymbol kind 31 :: hiSymbol u.length :: loSymbol u.length :: u.data.map dataByteSymbol := by
    rw [imageSymbols, lengthSymbols_eq]; rfl
  rw [he]
  refine congrArg Host.Outcome.next ((State.arriveImage_31 hk h ha u hw).trans ?_)
  rw [hsyms, State.writeCopySymbols_eq, State.transitWritten]
  generalize hall : tagSymbol kind 31 :: hiSymbol u.length :: loSymbol u.length :: u.data.map dataByteSymbol = symbols
  have h3 : ¬symbols.length < 3 := by simp [← hall]
  dsimp only
  rw [if_neg h3]
  by_cases hfit : symbols.length ≤ 4096 - s.transit.length
  · rw [if_pos hfit, if_pos hfit, mapIdx_unmarked, List.take_length]
  · rw [if_neg hfit, if_neg hfit]
    by_cases hroom : 3 ≤ 4096 - s.transit.length
    · rw [if_pos hroom, if_pos hroom, mapIdx_marked symbols (by omega) (by omega), List.append_assoc]
      rfl
    · rw [if_neg hroom, if_neg hroom]
      rfl

end Sys2Proof.Machine
end

section
/-! SUPPORT. The pixels of a line, symbol by symbol: those up to W_in passed, the line ended, the surplus ones counted once;
LINEs and ITEM CLOSEs as whole units (R9 to R14). -/

namespace Sys2Proof.Machine

variable {s : State} {n : Fin 4} {l : Lane}

/-! ## What a line's end leaves to be noted in the lane -/

/-- A lane with `k` more long lines, LONG_LINES raised if `b`, and another record of the unit it is taking. -/
def noteLine (k : Nat) (b : Bool) (x : Taking) (l : Lane) : Lane :=
  { l with
    longLines := l.longLines + k
    flags := { l.flags with longLines := l.flags.longLines || b }
    taking := x }

theorem noteLine_zero (x : Taking) (l : Lane) : noteLine 0 false x l = withTaking x l := by
  simp [noteLine, withTaking]

theorem noteLine_takeBRow (k b x n i r l) :
    takeBRow n i r (noteLine k b x l) = (noteLine k b x (takeBRow n i r l).1, (takeBRow n i r l).2) := by
  unfold takeBRow
  by_cases h : l.band.active = true
  · rw [if_pos (by exact h), if_pos h]
    dsimp only
    by_cases h2 : (bandAddRow l.band i r).rows.length = l.snap.h
    · rw [if_pos (by exact h2), if_pos (by exact h2)]; rfl
    · rw [if_neg (by exact h2), if_neg (by exact h2)]; rfl
  · rw [if_neg (by exact h), if_neg h]

theorem noteLine_takeGRow (k b x t n i r l) :
    takeGRow t n i r (noteLine k b x l) = (noteLine k b x (takeGRow t n i r l).1, (takeGRow t n i r l).2) := by
  unfold takeGRow
  by_cases h : l.coder.groupOpen = true
  · rw [if_pos (by exact h), if_pos h]
    dsimp only
    by_cases h2 : (groupAddRow t l.coder i r).group.length = 4
    · rw [if_pos (by exact h2), if_pos (by exact h2)]; rfl
    · rw [if_neg (by exact h2), if_neg (by exact h2)]; rfl
  · rw [if_neg (by exact h), if_neg h]

theorem noteLine_endLineB (k b x n l) :
    endLineB n (noteLine k b x l) = (noteLine k b x (endLineB n l).1, (endLineB n l).2) := by
  unfold endLineB
  change (match channelLine l.b with | (ch, none) => _ | (ch, some (i, row)) => _) = _
  rcases channelLine l.b with ⟨ch, _ | ⟨i, row⟩⟩
  · rfl
  · exact noteLine_takeBRow k b x n i row { l with b := ch }

theorem noteLine_endLineG (k b x t n l) :
    endLineG t n (noteLine k b x l) = (noteLine k b x (endLineG t n l).1, (endLineG t n l).2) := by
  unfold endLineG
  change (match channelLine l.g with | (ch, none) => _ | (ch, some (i, row)) => _) = _
  rcases channelLine l.g with ⟨ch, _ | ⟨i, row⟩⟩
  · rfl
  · exact noteLine_takeGRow k b x t n i row { l with g := ch }

theorem noteLine_offer (k b x seg l) : offer seg (noteLine k b x l) = noteLine k b x (offer seg l) := by
  unfold offer
  by_cases h : segSize seg ≤ storeFree l
  · rw [if_pos (by exact h), if_pos h]; rfl
  · rw [if_neg (by exact h), if_neg h]; rfl

theorem noteLine_endLine (k b x t f n l) : endLine t f n (noteLine k b x l) = noteLine k b x (endLine t f n l) := by
  unfold endLine
  simp only [noteLine_endLineB, noteLine_endLineG]
  rcases (endLineB n l).2 with _ | sb <;> rcases (endLineG t n (endLineB n l).1).2 with _ | sg <;> cases f <;>
    simp [offerOption, noteLine_offer]

/-- R45: the end of a line of lane `n`, being `l`, through the lane's own end-of-line signal. -/
theorem State.lineEnds_eq (n : Fin 4) (l : Lane) (s : State) :
    s.lineEnds n l =
      (let l' := endLine (s.laneTone n) (Config.groupFirst s.orderIndex) n l
       { s with
        lanes := s.lanes.set n l'
        req :=
          { s.req with
            events :=
              { s.req.events with
                outputLost := s.req.events.outputLost || decide (l.quality.dropped < l'.quality.dropped) } }
        orderIndex := s.orderIndex + 1 }) := by
  rw [endLine_eq]; rfl

theorem State.lineEnds_lane (n : Fin 4) (l : Lane) (s : State) :
    (s.lineEnds n l).lane n = endLine (s.laneTone n) (Config.groupFirst s.orderIndex) n l := by
  rw [State.lineEnds_eq]
  simp [State.lane]

theorem State.lineEnds_header : ((s.lineEnds n l).lane n).header = l.header := by
  rw [State.lineEnds_lane]
  exact (ItemFrame.endLine _ _ n l).header

theorem State.lineEnds_taking : ((s.lineEnds n l).lane n).taking = l.taking := by
  rw [State.lineEnds_lane]
  exact (ItemFrame.endLine _ _ n l).taking

/-- What is noted in the lane after the end of its line could have been noted before it. -/
theorem State.lineEnds_noteLine (k : Nat) (b : Bool) (x : Taking) :
    (s.lineEnds n l).setLane n (noteLine k b x ((s.lineEnds n l).lane n)) = s.lineEnds n (noteLine k b x l) := by
  rw [State.lineEnds_lane, State.lineEnds_eq, State.lineEnds_eq, noteLine_endLine]
  simp only [State.setLane, Vector.set_set]
  rfl

theorem State.lineEnds_withTaking (x : Taking) :
    (s.lineEnds n l).setLane n (withTaking x ((s.lineEnds n l).lane n)) = s.lineEnds n (withTaking x l) := by
  simpa only [noteLine_zero] using State.lineEnds_noteLine (s := s) (n := n) (l := l) 0 false x

theorem State.setLane_lineEnds (m : Lane) (h : m.coder.gTable = (s.lane n).coder.gTable) :
    (s.setLane n m).lineEnds n l = s.lineEnds n l := by
  have ht : (s.setLane n m).laneTone n = s.laneTone n := by simp only [State.laneTone, State.setLane_lane_same, h]; rfl
  rw [State.lineEnds_eq, State.lineEnds_eq, ht]
  simp only [State.setLane, Vector.set_set] <;> rfl

/-! ## Surplus pixels (R10) -/

theorem surplusPixel_eq (a : Nat) (prev : Byte) (l : Lane) :
    surplusPixel a prev l =
      noteLine (if a = l.header.wIn.toNat then 1 else 0) (decide (a = l.header.wIn.toNat)) (.line (a + 1) prev) l := by
  by_cases h : a = l.header.wIn.toNat
  · simp [surplusPixel, noteLine, h]
  · simp [surplusPixel, noteLine, h]

/-- R10, R11: the pixel symbols beyond W_in pass nothing on; the first of them makes the line a long one. -/
theorem State.laneData_surplus (syms : List Symbol) (prev : Byte) :
    ∀ (a : Nat) (s : State), (s.lane n).taking = .line a prev → (s.lane n).header.wIn.toNat ≤ a →
    (syms.foldl (fun s sym => s.laneData n sym) s).laneUnitEnd n =
      s.setLane n
        (noteLine (if a = (s.lane n).header.wIn.toNat ∧ syms ≠ [] then 1 else 0)
          (decide (a = (s.lane n).header.wIn.toNat ∧ syms ≠ [])) .none (s.lane n)) := by
  induction syms with
  | nil =>
    intro a s ht ha
    have hfull : s.completeLine n a = s := if_neg (by omega)
    simp [State.laneUnitEnd, ht, hfull, noteLine]
  | cons sym rest ih =>
    intro a s ht ha
    have hnot : ¬a < (s.lane n).header.wIn.toNat := by omega
    have hstep : s.laneData n sym = s.setLane n (surplusPixel a prev (s.lane n)) := by
      simp [State.laneData, ht, State.pixel, hnot]
    have hheader : (surplusPixel a prev (s.lane n)).header = (s.lane n).header := by rw [surplusPixel_eq]; rfl
    have htaking : (surplusPixel a prev (s.lane n)).taking = .line (a + 1) prev := by rw [surplusPixel_eq]; rfl
    have hne : ¬a + 1 = (s.lane n).header.wIn.toNat := by omega
    have hzero : ¬(a + 1 = (s.lane n).header.wIn.toNat ∧ rest ≠ []) := fun e => hne e.1
    rw [List.foldl_cons, hstep, ih (a + 1) _ (by simpa using htaking) (by simp [hheader]; omega),
      State.setLane_lane_same, State.setLane_setLane, hheader, if_neg hzero, decide_eq_false hzero, surplusPixel_eq]
    simp [noteLine]

/-! ## Pixels up to W_in (R9 to R11, R44) -/

theorem supplyPixels_eq (k : Nat) (l : Lane) :
    supplyPixels k l =
      { l with
        b := (List.replicate k (255 : Byte)).foldl (fun ch v => channelTake v ch) l.b
        g := (List.replicate k (255 : Byte)).foldl (fun ch v => channelTake v ch) l.g } := by
  induction k generalizing l with
  | zero => rfl
  | succ k ih => rw [supplyPixels, ih]; rfl

/-- R10, R45: the line that lane `n` is taking, being short, is made up with white pixels and ended. -/
theorem State.completeLine_short {a : Nat} (h : a < (s.lane n).header.wIn.toNat) (x : Taking) :
    (s.completeLine n a).setLane n (withTaking x ((s.completeLine n a).lane n)) = s.lineMadeUp n (s.lane n) a x := by
  have e : s.completeLine n a =
      s.lineEnds n (supplyPixels ((s.lane n).header.wIn.toNat - a) (countShort (s.lane n))) := by
    refine (if_pos h).trans (State.setLane_endLineOf s n _ ?_)
    rw [supplyPixels_eq]; rfl
  rw [e, State.lineEnds_withTaking, supplyPixels_eq]
  rfl

/-- R9 to R11, R44: a lane after the rest of a line's pixels, `a` having arrived and `prev` the value before them, before the
end-of-line signal. -/
def linePassed (pixels : List DataByte) (a : Nat) (prev : Byte) (l : Lane) : Lane :=
  let due := l.header.wIn.toNat - a
  let bad := (pixels.take due).countP DataByte.bad
  let values := repairedFrom prev (pixels.take due) ++ List.replicate (due - pixels.length) 255
  { l with
    shortLines := if pixels.length < due then l.shortLines + 1 else l.shortLines
    longLines := if due < pixels.length then l.longLines + 1 else l.longLines
    parityPixels := l.parityPixels + bad
    flags :=
      { l.flags with
        shortLines := l.flags.shortLines || decide (pixels.length < due)
        longLines := l.flags.longLines || decide (due < pixels.length)
        pixelParity := l.flags.pixelParity || decide (0 < bad) }
    taking := .none
    b := values.foldl (fun ch v => channelTake v ch) l.b
    g := values.foldl (fun ch v => channelTake v ch) l.g }

/-- R11: a pixel symbol below W_in is passed on, repaired if it is bad. -/
theorem takePixel_eq (a : Nat) (prev : Byte) (d : DataByte) (l : Lane) :
    takePixel a prev (dataByteSymbol d) l =
      { pixelPassed prev d l with taking := .line (a + 1) (if d.bad then prev else d.value) } := by
  unfold takePixel pixelPassed countParity pixelValue
  simp only [parityError_dataByteSymbol, symValue_dataByteSymbol]
  cases d.bad <;> simp [passPixel]

/-- The pixel at the head of those that are still to be passed. -/
theorem linePassed_cons (d : DataByte) (rest : List DataByte) {a : Nat} (prev : Byte) (l : Lane)
    (h : a < l.header.wIn.toNat) :
    linePassed (d :: rest) a prev l =
      linePassed rest (a + 1) (if d.bad then prev else d.value) (takePixel a prev (dataByteSymbol d) l) := by
  obtain ⟨due, hdue⟩ : ∃ due, l.header.wIn.toNat - a = due + 1 := ⟨l.header.wIn.toNat - (a + 1), by omega⟩
  have hdue' : l.header.wIn.toNat - (a + 1) = due := by omega
  rw [takePixel_eq]
  unfold linePassed pixelPassed
  simp only [hdue, hdue', List.take_succ_cons, repairedFrom, List.countP_cons, List.length_cons, Nat.add_lt_add_iff_right,
    Nat.add_sub_add_right, List.cons_append, List.foldl_cons]
  cases d.bad <;> simp [Nat.add_assoc, Nat.add_comm 1]

/-- Once W_in pixels have been passed, the further ones only count. -/
theorem linePassed_full (pixels : List DataByte) (prev : Byte) (l : Lane) {a : Nat} (h : a = l.header.wIn.toNat) :
    linePassed pixels a prev l =
      noteLine (if pixels ≠ [] then 1 else 0) (decide (pixels ≠ [])) .none l := by
  subst h
  cases pixels with
  | nil => simp [linePassed, noteLine, repairedFrom]
  | cons d rest => simp [linePassed, noteLine, repairedFrom]

/-- With no pixel left, the missing ones are supplied white. -/
theorem linePassed_nil {a : Nat} (prev : Byte) (l : Lane) (h : a < l.header.wIn.toNat) :
    linePassed [] a prev l =
      { countShort l with
        taking := .none
        b := (List.replicate (l.header.wIn.toNat - a) (255 : Byte)).foldl (fun ch v => channelTake v ch) l.b
        g := (List.replicate (l.header.wIn.toNat - a) (255 : Byte)).foldl (fun ch v => channelTake v ch) l.g } := by
  have hpos : 0 < l.header.wIn.toNat - a := by omega
  simp [linePassed, countShort, repairedFrom, hpos]

/-- R9 to R11, R45: the rest of a line's pixels, up to the end of its unit. -/
theorem State.laneData_line (pixels : List DataByte) :
    ∀ (a : Nat) (prev : Byte) (s : State), (s.lane n).taking = .line a prev → a < (s.lane n).header.wIn.toNat →
    ((pixels.map dataByteSymbol).foldl (fun s sym => s.laneData n sym) s).laneUnitEnd n =
      s.lineEnds n (linePassed pixels a prev (s.lane n)) := by
  induction pixels with
  | nil =>
    intro a prev s ht ha
    have hend : s.laneUnitEnd n =
        (s.completeLine n a).setLane n (withTaking .none ((s.completeLine n a).lane n)) := by
      simp only [State.laneUnitEnd, ht]; rfl
    rw [linePassed_nil prev _ ha, List.map_nil, List.foldl_nil, hend, State.completeLine_short ha]
    rfl
  | cons d rest ih =>
    intro a prev s ht ha
    have hheader : (takePixel a prev (dataByteSymbol d) (s.lane n)).header = (s.lane n).header := by rw [takePixel_eq]; rfl
    have htaking : (takePixel a prev (dataByteSymbol d) (s.lane n)).taking =
        .line (a + 1) (if d.bad then prev else d.value) := by rw [takePixel_eq]
    have htable : (takePixel a prev (dataByteSymbol d) (s.lane n)).coder.gTable = (s.lane n).coder.gTable := by
      rw [takePixel_eq]; rfl
    rw [List.map_cons, List.foldl_cons, linePassed_cons d rest prev _ ha]
    by_cases hlast : a + 1 = (s.lane n).header.wIn.toNat
    · have hstep : s.laneData n (dataByteSymbol d) =
          s.lineEnds n (takePixel a prev (dataByteSymbol d) (s.lane n)) := by
        rw [← State.setLane_endLineOf s n _ htable]
        simp [State.laneData, ht, State.pixel, ha, hlast]
      rw [hstep, State.laneData_surplus _ _ (a + 1) _ (State.lineEnds_taking.trans htaking)
          (by rw [State.lineEnds_header, hheader]; omega), State.lineEnds_header, hheader, State.lineEnds_noteLine,
        linePassed_full rest _ _ (by rw [hheader]; exact hlast)]
      simp [hlast]
    · have hstep : s.laneData n (dataByteSymbol d) = s.setLane n (takePixel a prev (dataByteSymbol d) (s.lane n)) := by
        simp [State.laneData, ht, State.pixel, ha, hlast]
      rw [hstep, ih (a + 1) _ _ (by simpa using htaking) (by simp [hheader]; omega), State.setLane_lane_same,
        State.setLane_lineEnds _ htable]

/-! ## Whole LINEs and ITEM CLOSEs -/

theorem linePassed_beginLine (pixels : List DataByte) (h : l.lineCount < 4096) :
    linePassed pixels 0 255 (beginLine l) = countedLine pixels l := by
  have e : beginLine l = { l with stallTimer := 0, lineCount := l.lineCount + 1, taking := .line 0 255 } := if_pos h
  rw [e]
  rfl

/-- R2, R9, R12: a whole LINE that a lane in OPEN or DISCARD takes. -/
theorem State.arriveImage_line (h : s.linkIdle) (ha : s.partAddress ≠ 31)
    (hs : (s.lane n).state = .opened ∨ (s.lane n).state = .discard) {u : ImageUnit} (hw : wholeImage u) {d : DataByte}
    {pixels : List DataByte} (hd : u.data = d :: pixels) (hb : d.bad = false) (hn : d.value.toNat = n.val) :
    s.arriveImage kindLine u =
      ((pixels.map dataByteSymbol).foldl (fun s sym => s.laneData n sym)
        (s.setLane n (if (s.lane n).state = .discard then discardLine (s.lane n) else beginLine (s.lane n)))).laneUnitEnd
          n := by
  have hc : (s.lane n).state ≠ .closing := by rcases hs with e | e <;> simp [e]
  have hi : (s.lane n).state ≠ .idle := by rcases hs with e | e <;> simp [e]
  have hk : (kindLine == kindItemOpen) = false := by decide
  have hbegin : s.beginImage kindLine n (dataByteSymbol d) =
      s.setLane n (if (s.lane n).state = .discard then discardLine (s.lane n) else beginLine (s.lane n)) :=
    if_neg (fun e => absurd e.1 (by decide))
  rw [State.arriveImage_taken (.inr (.inl rfl)) h ha u hw d pixels hd hb hn (fun e => absurd e (by decide))
    (by simp [laneRefuses, hc, hk]) (by simp [isStray, hi]), hbegin]

/-- Settles O16: the pixels pass one by one up to W_in, the last one or the unit's end then ends the line. -/
theorem lineCountedAndPassed : Obligations.LineCountedAndPassed := by
  intro s n u d pixels h ha hs hcount hwin hw hd hb hn
  refine congrArg Host.Outcome.next ?_
  have hbegin : beginLine (s.lane n) =
      { s.lane n with stallTimer := 0, lineCount := (s.lane n).lineCount + 1, taking := .line 0 255 } := if_pos hcount
  have hnot : (s.lane n).state ≠ .discard := by simp [hs]
  rw [State.arriveImage_line h ha (.inl hs) hw hd hb hn, if_neg hnot,
    State.laneData_line pixels 0 255 _ (by simp [hbegin]) (by simpa [hbegin] using Nat.pos_of_ne_zero (by omega)), State.setLane_lane_same,
    linePassed_beginLine pixels hcount, State.setLane_lineEnds _ (by rw [hbegin])]

/-- R9, R12: a unit whose data a lane drops leaves no record of it in the lane. -/
theorem State.laneData_dropped (syms : List Symbol) (h : l.taking = .dropping) :
    (syms.foldl (fun s sym => s.laneData n sym) (s.setLane n l)).laneUnitEnd n = s.setLane n (withTaking .none l) := by
  rw [State.laneData_dropping _ _ _ (.inl (by simpa using h)), State.laneUnitEnd]
  simp only [State.setLane_lane_same, h, State.setLane_setLane]
  rfl

/-- Settles O17: a LINE that is capped or discarded is dropped by its lane. -/
theorem lineCappedOrDiscarded : Obligations.LineCappedOrDiscarded := by
  intro s n u d pixels h ha hw hd hb hn
  constructor
  · intro hs hcap
    refine congrArg Host.Outcome.next ?_
    have hnot : ¬(s.lane n).lineCount < lineCap := Nat.not_lt.2 hcap
    have hcapped : (if (s.lane n).state = .discard then discardLine (s.lane n) else beginLine (s.lane n)) =
        { s.lane n with
          stallTimer := 0, flags := { (s.lane n).flags with lineCap := true }, taking := .dropping } := by
      simp [discardLine, beginLine, hnot]
    rw [State.arriveImage_line h ha hs hw hd hb hn, hcapped, State.laneData_dropped _ rfl]
    rfl
  · intro hs hcount
    refine congrArg Host.Outcome.next ?_
    have hcounted : discardLine (s.lane n) =
        { s.lane n with stallTimer := 0, lineCount := (s.lane n).lineCount + 1, taking := .dropping } := if_pos hcount
    rw [State.arriveImage_line h ha (.inr hs) hw hd hb hn, if_pos hs, hcounted, State.laneData_dropped _ rfl]
    rfl

/-- R13: the count check of an ITEM CLOSE, on the bytes behind its lane symbol. -/
theorem declaredCount_three (d hi lo : DataByte) :
    declaredCount ([d, hi, lo].map dataByteSymbol) =
      if hi.bad = true ∨ lo.bad = true then none else some (256 * hi.value.toNat + lo.value.toNat) := by
  have hfield : headerField ([d, hi, lo].map dataByteSymbol) 1 2 = 256 * hi.value.toNat + lo.value.toNat := by
    simp [headerField, fieldAt, symValues, beValue, Nat.mul_comm]
  simp only [declaredCount, hfield]
  simp

theorem declaredCount_short {syms : List Symbol} (h : syms.length < 3) : declaredCount syms = none := by
  simp [declaredCount, h]

/-- R13: whether the declared count of an ITEM CLOSE agrees, on its data symbols behind the lane symbol. -/
theorem declaredCount_eq_some (d : DataByte) (ds : List DataByte) (k : Nat) :
    declaredCount (((d :: ds).map dataByteSymbol).take 3) = some k ↔
      ∃ hi lo rest, ds = hi :: lo :: rest ∧ hi.bad = false ∧ lo.bad = false ∧
        256 * hi.value.toNat + lo.value.toNat = k := by
  match ds with
  | [] => simp [declaredCount]
  | [hi] => simp [declaredCount]
  | hi :: lo :: rest =>
    have e : ((d :: hi :: lo :: rest).map dataByteSymbol).take 3 = [d, hi, lo].map dataByteSymbol := rfl
    rw [e, declaredCount_three]
    cases hhi : hi.bad <;> cases hlo : lo.bad <;> simp [hhi, hlo]

/-- R2, R13: a whole ITEM CLOSE that a lane in OPEN takes. -/
theorem State.arriveImage_close (h : s.linkIdle) (ha : s.partAddress ≠ 31) (hs : (s.lane n).state = .opened)
    {u : ImageUnit} (hw : wholeImage u) {d : DataByte} {ds : List DataByte} (hd : u.data = d :: ds) (hb : d.bad = false)
    (hn : d.value.toNat = n.val) :
    s.arriveImage kindItemClose u =
      s.itemEnds n (countCheck (((d :: ds).map dataByteSymbol).take 3) { s.lane n with taking := .none }) := by
  have hk : (kindItemClose == kindItemOpen) = false := by decide
  have hbegin : s.beginImage kindItemClose n (dataByteSymbol d) =
      s.setLane n { s.lane n with taking := .close [dataByteSymbol d] } :=
    (if_neg (fun e => by simp [hs] at e)).trans rfl
  rw [State.arriveImage_taken (.inr (.inr rfl)) h ha u hw d ds hd hb hn (fun e => absurd e (by decide))
      (by simp [laneRefuses, hs, hk]) (by simp [isStray, hs]), hbegin,
    State.laneData_close _ _ _ [dataByteSymbol d] (by simp) (by simpa using hs) (by simp), State.setLane_itemEnds,
    State.setLane_lane_same]
  rfl

/-- Settles O18: the declared count decides on COUNT_MISMATCH in OPEN; in DISCARD the lane symbol ends the item. -/
theorem itemCloseEndsItem : Obligations.ItemCloseEndsItem := by
  intro s n u d ds h ha hw hd hb hn
  refine ⟨fun hs => ⟨fun hi lo rest hds hhi hlo hcount => ?_, fun hbad => ?_⟩, fun hs => ?_⟩
  · have hgood := (declaredCount_eq_some d ds (s.lane n).lineCount).2 ⟨hi, lo, rest, hds, hhi, hlo, hcount⟩
    have e : countCheck (((d :: ds).map dataByteSymbol).take 3) { s.lane n with taking := .none } =
        { s.lane n with taking := .none } := if_pos hgood
    refine congrArg Host.Outcome.next ?_
    rw [State.arriveImage_close h ha hs hw hd hb hn, e]
  · have hnot : ¬declaredCount (((d :: ds).map dataByteSymbol).take 3) = some (s.lane n).lineCount := by
      rw [declaredCount_eq_some]
      rintro ⟨hi, lo, rest, hds, hhi, hlo, hcount⟩
      rcases hbad hi lo rest hds with e | e | e
      · simp [hhi] at e
      · simp [hlo] at e
      · exact e hcount
    have e : countCheck (((d :: ds).map dataByteSymbol).take 3) { s.lane n with taking := .none } =
        { s.lane n with flags := { (s.lane n).flags with countMismatch := true }, taking := .none } := if_neg hnot
    refine congrArg Host.Outcome.next ?_
    rw [State.arriveImage_close h ha hs hw hd hb hn, e]
  · refine congrArg Host.Outcome.next ?_
    have hk : (kindItemClose == kindItemOpen) = false := by decide
    have hbegin : s.beginImage kindItemClose n (dataByteSymbol d) = s.itemEnds n (withTaking .dropping (s.lane n)) :=
      (if_pos ⟨rfl, hs⟩).trans (State.setLane_closeLane s n _ (.inr hs))
    have htaking := State.itemEnds_taking s n (withTaking .dropping (s.lane n))
    rw [State.arriveImage_taken (.inr (.inr rfl)) h ha u hw d ds hd hb hn (fun e => absurd e (by decide))
      (by simp [laneRefuses, hs, hk]) (by simp [isStray, hs]), hbegin, State.laneData_dropping _ _ _ (.inl htaking),
      State.laneUnitEnd, htaking]
    exact State.itemEnds_withTaking s n .none _

end Sys2Proof.Machine
end

section
/-! SUPPORT. Whole request units: the checks in order, the hold, and what each kind of request does (R149 to R157). -/

namespace Sys2Proof.Machine

variable {s : State} {r : Request} {kind : Byte} {k : RequestKind}

/-! ## The checks of a whole request (R150) -/

/-- R168: the commands of the requests, each with the value of its kind. -/
theorem exec_request {c : Instr}
    (hc : (c, kind) ∈
      [(Instr.loadProfile r, 1), (.readProfile r, 2), (.loadTone r, 3), (.readTone r, 4), (.loadTimebase r, 5),
        (.readStatus r, 6), (.abortLane r, 7), (.restartPart r, 8), (.reloadBoot r, 9)]) (s : State) :
    exec c s = .next (s.arriveRequest kind r) := by
  simp only [List.mem_cons, Prod.mk.injEq, List.not_mem_nil, or_false] at hc
  rcases hc with ⟨rfl, rfl⟩ | ⟨rfl, rfl⟩ | ⟨rfl, rfl⟩ | ⟨rfl, rfl⟩ | ⟨rfl, rfl⟩ | ⟨rfl, rfl⟩ | ⟨rfl, rfl⟩ |
    ⟨rfl, rfl⟩ | ⟨rfl, rfl⟩ <;> rfl

/-- R150: the kind that a command's value stands for, and its L. -/
theorem request_kind {c : Instr} {len : Nat}
    (hc : (c, kind, len) ∈
      [(Instr.loadProfile r, (1 : Byte), 39), (.readProfile r, 2, 3), (.loadTone r, 3, 259), (.readTone r, 4, 3),
        (.loadTimebase r, 5, 5), (.readStatus r, 6, 2), (.abortLane r, 7, 3), (.restartPart r, 8, 2),
        (.reloadBoot r, 9, 2)]) :
    (∀ s, exec c s = .next (s.arriveRequest kind r)) ∧ ∃ k, requestKindOf kind = some k ∧ requestLength k = len := by
  simp only [List.mem_cons, Prod.mk.injEq, List.not_mem_nil, or_false] at hc
  rcases hc with ⟨rfl, rfl, rfl⟩ | ⟨rfl, rfl, rfl⟩ | ⟨rfl, rfl, rfl⟩ | ⟨rfl, rfl, rfl⟩ | ⟨rfl, rfl, rfl⟩ |
    ⟨rfl, rfl, rfl⟩ | ⟨rfl, rfl, rfl⟩ | ⟨rfl, rfl, rfl⟩ | ⟨rfl, rfl, rfl⟩ <;>
    exact ⟨fun _ => rfl, _, rfl, rfl⟩

theorem requestLength_le (k : RequestKind) : requestLength k ≤ 259 := by cases k <;> decide

theorem recorded_data (kind : Byte) (r : Request) :
    (recorded kind r).data =
      dataByteSymbol r.tag :: dataByteSymbol ⟨kind, r.kindBad⟩ :: (r.operands.map dataByteSymbol).take 257 := by
  simp [recorded, requestSyms, requestData, requestSymbols]

/-- R150: the checks of a whole request of a known kind. -/
theorem requestCheck_recorded (hw : wholeRequest r) (hk : requestKindOf kind = some k) :
    requestCheck (recorded kind r) =
      if (r.tag.bad || r.kindBad) = true then .error .badParity
      else if r.length.toNat ≠ requestLength k then .error .badLength
      else if r.operands.any DataByte.bad = true then .error .badParity
      else .ok k := by
  have hlen : r.operands.length + 2 = r.length.toNat := hw
  have hreceived : (recorded kind r).received = r.length.toNat := rfl
  have hlength : (recorded kind r).length = r.length.toNat := rfl
  have hhead : ((recorded kind r).data.take 2).any parityError = (r.tag.bad || r.kindBad) := by
    rw [recorded_data]; simp
  rw [requestCheck, hhead, requestKindByte_recorded, hk, hreceived, hlength, if_neg (by omega)]
  by_cases hbad : (r.tag.bad || r.kindBad) = true
  · rw [if_pos hbad, if_pos hbad]
  rw [if_neg hbad, if_neg hbad]
  by_cases hL : r.length.toNat = requestLength k
  · have hle := requestLength_le k
    have htail : ((recorded kind r).data.drop 2).any parityError = r.operands.any DataByte.bad := by
      rw [recorded_data, List.drop_succ_cons, List.drop_succ_cons, List.drop_zero,
        List.take_of_length_le (by rw [List.length_map]; omega), List.any_map]
      exact congrArg (fun f => List.any r.operands f) (funext parityError_dataByteSymbol)
    rw [htail]
    simp only [hL, ne_eq, not_true_eq_false, or_self, if_false]
  · simp only [ne_eq, hL, not_false_eq_true, not_true_eq_false, or_false, if_true]

/-- Settles O23: the first check that fails answers. -/
theorem requestChecksInOrder : Obligations.RequestChecksInOrder := by
  intro s r c kind len hc h hw
  obtain ⟨he, k, hk, hlen⟩ := request_kind hc
  have hcheck := requestCheck_recorded hw hk
  have refused (code : ReplyCode) (e : requestCheck (recorded kind r) = .error code) :
      exec c s = .next ((s.forwarded kind r).replied kind r code []) :=
    (he s).trans (congrArg Host.Outcome.next (State.arriveRequest_error kind r h hw code e))
  refine ⟨fun hbad => refused _ ?_, fun htag hkind hL => refused _ ?_, fun htag hkind hL hops => refused _ ?_⟩
  · rw [hcheck, if_pos (by simpa using hbad)]
  · rw [hcheck, if_neg (by simp [htag, hkind]), if_pos (by rw [hlen]; exact hL)]
  · rw [hcheck, if_neg (by simp [htag, hkind]), if_neg (by simp [hlen, hL]), if_pos (List.any_eq_true.2 hops)]

/-! ## A request that is held (R141, R149) -/

theorem State.refusesRequest_iff (tag : DataByte) (kindBad : Bool) :
    s.refusesRequest [dataByteSymbol tag, dataByteSymbol ⟨kind, kindBad⟩] = true ↔
      8 ≤ s.replies.length + s.req.owed ∨ (kind = 9 ∧ kindBad = false ∧ s.req.bootRunning.isSome = true) := by
  refine (Bool.or_eq_true_iff).trans (or_congr decide_eq_true_iff ?_)
  simp only [List.getElem?_cons_succ, List.getElem?_cons_zero, Option.any_some, parityError_dataByteSymbol,
    symValue_dataByteSymbol, kindReloadBoot, Bool.and_eq_true, Bool.not_eq_true', beq_iff_eq]
  tauto

/-- R141, R149: a whole request that is refused for the present is held with its tag and kind symbols. -/
theorem State.arriveRequest_held (h : s.linkIdle) (hw : wholeRequest r)
    (hr : s.refusesRequest [dataByteSymbol r.tag, dataByteSymbol ⟨kind, r.kindBad⟩] = true) :
    s.arriveRequest kind r =
      ((s.withLrx { s.lrx with hold := some (s.heldRequest kind r) }).backlog (r.operands.map dataByteSymbol)) := by
  have aw : s.awake := h.2
  have hlen : r.length.toNat = r.operands.length + 2 := hw.symm
  have hL : r.length ≠ 0 := by rintro e; rw [e] at hlen; simp at hlen
  have hsub : r.length.toNat - 1 - 1 = r.operands.length := by omega
  have hmore : r.length.toNat - 1 ≠ 0 := by omega
  rw [State.arriveRequest, requestUnitSymbols_eq, State.arrive_header _ _ _ _ h, classify_request]
  generalize htag : tagSymbol kindRequest (if r.broadcast then broadcastAddress else s.partAddress) = tag
  have hkind : tagKind tag = kindRequest := by rw [← htag]; simp
  generalize hcls : (if s.broadcasts r then UnitClass.broadcast else .own) = cls
  have hc : cls = .own ∨ cls = .broadcast := by rw [← hcls]; split <;> simp
  rw [State.lengthKnown_own cls tag r.length hc hL]
  simp only [hkind, ne_eq, not_true, and_false, if_false]
  rw [State.arriveAll_cons, State.arrive_parsing s _ _ _ _ aw]
  have e1 : (s.parsing (.body ⟨cls, tag, hiSymbol r.length, loSymbol r.length, r.length.toNat, .awaitKind []⟩) []
        false).takeSymbol (dataByteSymbol r.tag) =
      s.parsing (.body ⟨cls, tag, hiSymbol r.length, loSymbol r.length, r.length.toNat - 1,
        .awaitKind [dataByteSymbol r.tag]⟩) [] false := by
    simp [State.takeSymbol, State.parsing, State.takeBody, State.takeKindSymbol, hmore, State.withParse]
  have hheld : s.heldRequest kind r =
      { unit := ⟨cls, tag, hiSymbol r.length, loSymbol r.length, r.operands.length,
          .awaitKind [dataByteSymbol r.tag]⟩
        data := [dataByteSymbol r.tag, dataByteSymbol ⟨kind, r.kindBad⟩]
        ended := decide (r.operands.length = 0) } := by
    rw [State.heldRequest, ← hcls, ← htag]
    simp only [List.length_eq_zero_iff]
    rfl
  rw [e1, State.arriveAll_cons, State.arrive_parsing s _ _ _ _ aw]
  have e2 : (s.parsing (.body ⟨cls, tag, hiSymbol r.length, loSymbol r.length, r.length.toNat - 1,
        .awaitKind [dataByteSymbol r.tag]⟩) [] false).takeSymbol (dataByteSymbol ⟨kind, r.kindBad⟩) =
      s.withLrx { s.lrx with hold := some (s.heldRequest kind r) } := by
    have hrefuse : ∀ v, (s.withLrx v).refusesRequest [dataByteSymbol r.tag, dataByteSymbol ⟨kind, r.kindBad⟩] = true :=
      fun _ => hr
    rw [hheld, h.1]
    simp [State.takeSymbol, State.parsing, State.takeBody, State.takeKindSymbol, State.withParse, hsub, State.present,
      hkind, State.presentRequest, hrefuse, State.withHold]
  rw [e2]
  exact State.arriveAll_blocked _ aw.1 (by simp [State.lrxFree])

/-- Settles O24. -/
theorem requestHeldWhileRefused : Obligations.RequestHeldWhileRefused := by
  intro s r c kind hc h hw hr
  rw [exec_request hc s]
  exact congrArg Host.Outcome.next (State.arriveRequest_held h hw ((State.refusesRequest_iff r.tag r.kindBad).2 hr))

/-! ## The execution of a clean request -/

/-- R150: a whole clean request of the right length passes its checks. -/
theorem requestCheck_clean {ops : List Byte} (hw : wholeRequest r) (hclean : cleanRequest r ops)
    (hk : requestKindOf kind = some k) (hlen : ops.length + 2 = requestLength k) :
    requestCheck (recorded kind r) = .ok k := by
  obtain ⟨htag, hkind, hops⟩ := hclean
  have hL : r.length.toNat = requestLength k := by
    rw [← hlen, ← hw, hops, List.length_map]
  have hgood : ¬r.operands.any DataByte.bad = true := by rw [hops]; simp
  rw [requestCheck_recorded hw hk, if_neg (by simp [htag, hkind]), if_neg (not_not.2 hL), if_neg hgood]

theorem requestOperands_recorded {ops : List Byte} (hclean : cleanRequest r ops) (hlen : ops.length ≤ 257) :
    requestOperands (recorded kind r) = ops := by
  have hvalue : (fun v : Byte => symValue (dataByteSymbol ⟨v, false⟩)) = id := funext fun v => by simp
  rw [requestOperands, recorded_data, hclean.2.2]
  simp only [List.drop_succ_cons, List.drop_zero, symValues, List.map_map]
  rw [List.take_of_length_le (by simpa using hlen), List.map_map]
  exact (congrArg (fun f => List.map f ops) hvalue).trans (List.map_id ops)

theorem State.forwarded_owed (kind : Byte) (r : Request) : (s.forwarded kind r).req.owed = s.req.owed := by
  rw [(State.forwarded_frame kind r s).req]

theorem State.forwarded_inProgress (kind : Byte) (r : Request) :
    (s.forwarded kind r).req.inProgress = s.req.inProgress := by
  rw [(State.forwarded_frame kind r s).req]

/-- The owed reply of a request in execution, on a state that differs from the copied one in what the request does. -/
theorem State.forwarded_reply (h : s.takesRequest kind r) (t : State) (code : ReplyCode) (body : List Byte)
    (howed : t.req.owed = s.req.owed) (hin : t.req.inProgress = s.req.inProgress) :
    (t.owing (s.req.owed + 1)).reply (recorded kind r) code body = t.replied kind r code body :=
  State.owing_reply _ t kind r code body howed (hin.trans h.2.1)

/-- R26, R27: LOAD PROFILE on its operands. -/
theorem State.arrive_loadProfile {index : Byte} {bytes : List Byte} (h : s.takesRequest 1 r) (hw : wholeRequest r)
    (hclean : cleanRequest r (index :: bytes)) (hlen : bytes.length = 36) :
    s.arriveRequest 1 r =
      ((s.forwarded 1 r).withTables (tableLoadProfile (s.forwarded 1 r).tables index bytes).1).replied 1 r
        (tableLoadProfile (s.forwarded 1 r).tables index bytes).2 [] := by
  have hcheck := requestCheck_clean (kind := 1) hw hclean (k := .loadProfile) rfl (by simp [hlen]; rfl)
  rw [State.arriveRequest_ok 1 r h hw _ hcheck (by decide)]
  dsimp only
  rw [State.doLoadProfile, requestOperands_recorded hclean (by simp [hlen])]
  exact State.forwarded_reply h
    ((s.forwarded 1 r).withTables (tableLoadProfile (s.forwarded 1 r).tables index bytes).1) _ _
    (State.forwarded_owed 1 r) (State.forwarded_inProgress 1 r)

/-- Settles O26. -/
theorem loadProfileReplacesRecord : Obligations.LoadProfileReplacesRecord := by
  intro s r index bytes h hw hclean hlen t
  have he : exec (.loadProfile r) s = .next ((t.withTables (tableLoadProfile t.tables index bytes).1).replied 1 r
      (tableLoadProfile t.tables index bytes).2 []) :=
    congrArg Host.Outcome.next (State.arrive_loadProfile h hw hclean hlen)
  refine ⟨fun hi => ?_, fun hi hr => ?_, fun k hk hr => ?_⟩
  · have e : tableLoadProfile t.tables index bytes = (t.tables, .badIndex) := dif_neg (by omega)
    rw [he, e]; rfl
  · have e : tableLoadProfile t.tables index bytes = (t.tables, .badValue) :=
      (dif_pos (by omega)).trans (if_neg (mt (recordOk_iff _).1 hr))
    rw [he, e]; rfl
  · have e : tableLoadProfile t.tables index bytes = (setProfile t.tables k (recordOfBytes bytes), .done) := by
      have hlt : index.toNat < 16 := hk ▸ k.isLt
      have hfin : (⟨index.toNat, hlt⟩ : Fin 16) = k := Fin.ext hk.symm
      exact (dif_pos hlt).trans ((if_pos ((recordOk_iff _).2 hr)).trans (by rw [hfin]))
    rw [he, e]; rfl

/-- Settles O27. -/
theorem readsReportTables : Obligations.ReadsReportTables := by
  intro s r index hw hclean
  refine ⟨fun h => ?_, fun h => ?_⟩
  · have hcheck := requestCheck_clean (kind := 2) hw hclean (k := .readProfile) rfl rfl
    have htables : (s.forwarded 2 r).tables = s.tables := (State.forwarded_frame 2 r s).tables
    have he : exec (.readProfile r) s = .next ((s.forwarded 2 r).replied 2 r (tableReadProfile s.tables index).1
        (tableReadProfile s.tables index).2) := by
      refine congrArg Host.Outcome.next ?_
      rw [show kindReadProfile = 2 from rfl, State.arriveRequest_ok 2 r h hw _ hcheck (by decide)]
      dsimp only
      rw [State.doReadProfile, requestOperands_recorded hclean (by simp), ← htables]
      exact State.forwarded_reply h (s.forwarded 2 r) _ _ (State.forwarded_owed 2 r) (State.forwarded_inProgress 2 r)
    refine ⟨fun hi => ?_, fun k hk => ?_⟩
    · have e : tableReadProfile s.tables index = (.badIndex, []) := dif_neg (by omega)
      rw [he, e]
    · have hlt : index.toNat < 16 := hk ▸ k.isLt
      obtain rfl : k = ⟨index.toNat, hlt⟩ := Fin.ext hk
      have e : tableReadProfile s.tables index =
          (.done, BitVec.ofNat 8 s.tables.profiles[index.toNat].valid.toNat ::
            recordBytes s.tables.profiles[index.toNat].record) := dif_pos hlt
      have hflag : ∀ b : Bool, BitVec.ofNat 8 b.toNat = if b then 1 else 0 := by decide
      rw [he, e, hflag]
      rfl
  · have hcheck := requestCheck_clean (kind := 4) hw hclean (k := .readTone) rfl rfl
    have htables : (s.forwarded 4 r).tables = s.tables := (State.forwarded_frame 4 r s).tables
    have he : exec (.readTone r) s = .next ((s.forwarded 4 r).replied 4 r (tableReadTone s.tables index).1
        (tableReadTone s.tables index).2) := by
      refine congrArg Host.Outcome.next ?_
      rw [show kindReadTone = 4 from rfl, State.arriveRequest_ok 4 r h hw _ hcheck (by decide)]
      dsimp only
      rw [State.doReadTone, requestOperands_recorded hclean (by simp), ← htables]
      exact State.forwarded_reply h (s.forwarded 4 r) _ _ (State.forwarded_owed 4 r) (State.forwarded_inProgress 4 r)
    refine ⟨fun hi => ?_, fun k hk => ?_⟩
    · have e : tableReadTone s.tables index = (.badIndex, []) := dif_neg (by omega)
      rw [he, e]
    · have hlt : index.toNat < 4 := hk ▸ k.isLt
      obtain rfl : k = ⟨index.toNat, hlt⟩ := Fin.ext hk
      have e : tableReadTone s.tables index =
          (.done, s.tables.tones[index.toNat].toList ++ [BitVec.ofNat 8 s.tables.inUse[index.toNat]]) := dif_pos hlt
      rw [he, e]
      rfl

theorem toneTableOf_toList (entries : Vector Byte 256) : toneTableOf entries.toList = entries := by
  apply Vector.ext
  intro i hi
  simp [toneTableOf, List.getD_eq_getElem?_getD]

/-- Settles O28. -/
theorem loadToneReplacesTable : Obligations.LoadToneReplacesTable := by
  intro s r index entries h hw hclean t
  have hcheck := requestCheck_clean (kind := 3) hw hclean (k := .loadTone) rfl (by simp; rfl)
  have htables : t.tables = s.tables := (State.forwarded_frame 3 r s).tables
  have he : exec (.loadTone r) s = .next ((t.withTables (tableLoadTone t.tables index entries.toList).1).replied 3 r
      (tableLoadTone t.tables index entries.toList).2 []) := by
    refine congrArg Host.Outcome.next ?_
    rw [show kindLoadTone = 3 from rfl, State.arriveRequest_ok 3 r h hw _ hcheck (by decide)]
    dsimp only
    rw [State.doLoadTone, requestOperands_recorded hclean (by simp)]
    exact State.forwarded_reply h (t.withTables (tableLoadTone t.tables index entries.toList).1) _ _
      (State.forwarded_owed 3 r) (State.forwarded_inProgress 3 r)
  refine ⟨fun hi => ?_, fun k hk => ?_⟩
  · have e : tableLoadTone t.tables index entries.toList = (t.tables, .badIndex) := dif_neg (by omega)
    rw [he, e]; rfl
  · have hlt : index.toNat < 4 := hk ▸ k.isLt
    obtain rfl : k = ⟨index.toNat, hlt⟩ := Fin.ext hk
    refine ⟨fun huse => ?_, fun huse => ?_⟩
    · have e : tableLoadTone t.tables index entries.toList = (t.tables, .inUse) :=
        (dif_pos hlt).trans (if_pos (by rw [htables]; exact huse))
      rw [he, e]; rfl
    · have e : tableLoadTone t.tables index entries.toList =
          ({ t.tables with tones := t.tables.tones.set index.toNat entries }, .done) := by
        refine (dif_pos hlt).trans ((if_neg (by rw [htables]; exact Nat.not_lt.2 (Nat.le_of_eq huse))).trans ?_)
        rw [setTone, toneTableOf_toList]
      rw [he, e]

/-- Settles O29. -/
theorem loadTimebaseReplacesSetting : Obligations.LoadTimebaseReplacesSetting := by
  intro s r code hi lo h hw hclean t divisor
  have hcheck := requestCheck_clean (kind := 5) hw hclean (k := .loadTimebase) rfl rfl
  have hfield : fieldAt [code, hi, lo] 1 2 = divisor := by simp [fieldAt, beValue, divisor, Nat.mul_comm]
  have he : exec (.loadTimebase r) s =
      .next (State.doLoadTimebase (recorded 5 r) (t.owing (s.req.owed + 1))) := by
    refine congrArg Host.Outcome.next ?_
    rw [show kindLoadTimebase = 5 from rfl, State.arriveRequest_ok 5 r h hw _ hcheck (by decide)]
  rw [he, State.doLoadTimebase, requestOperands_recorded hclean (by simp), hfield]
  refine ⟨fun hbad => ?_, fun hcode hdiv => ?_⟩
  · have e : tableLoadTimebase t.tables code.toNat divisor = (t.tables, .badValue) := if_neg (by omega)
    rw [show (t.owing (s.req.owed + 1)).tables = t.tables from rfl, List.getD_cons_zero, e]
    exact congrArg Host.Outcome.next
      (State.forwarded_reply h t _ _ (State.forwarded_owed 5 r) (State.forwarded_inProgress 5 r))
  · have e : tableLoadTimebase t.tables code.toNat divisor = (setTimebase t.tables code.toNat divisor, .done) :=
      if_pos ⟨hcode, hdiv⟩
    rw [show (t.owing (s.req.owed + 1)).tables = t.tables from rfl, List.getD_cons_zero, e]
    exact congrArg Host.Outcome.next
      (State.forwarded_reply h ((t.withTables (setTimebase t.tables code.toNat divisor)).withTime {}) _ _
        (State.forwarded_owed 5 r) (State.forwarded_inProgress 5 r))

/-- R154: a lane's nine bytes of the report. -/
theorem laneReport_eq (l : Lane) :
    laneReport l =
      (match l.state with | .idle => (0 : Byte) | .opened => 1 | .discard => 2 | .closing => 3)
        :: (beBytes 4 l.header.item.toNat ++ beBytes 2 l.lineCount
          ++ beBytes 2 (32768 - (l.store.map segSize).sum)) := by
  have hstate : laneStateByte l.state =
      (match l.state with | .idle => (0 : Byte) | .opened => 1 | .discard => 2 | .closing => 3) := by
    cases l.state <;> rfl
  rw [laneReport, hstate]
  simp [storeFree, storeBytes, storeUsed]

theorem eventFlagBits_eq (f : EventFlags) :
    eventFlagBits f =
      f.tagParity.toNat + 2 * f.rxOverrun.toNat + 4 * f.transitOverrun.toNat + 8 * f.stray.toNat
        + 16 * f.outputLost.toNat := by
  simp only [eventFlagBits, flagBits]
  omega

/-- R154, R171: the report, byte by byte. -/
theorem State.statusReport_eq (t : State) :
    t.statusReport =
      [t.partAddress.setWidth 8,
         (match t.req.lastReset with | .powerOn => (0 : Byte) | .resetLine => 1 | .request => 2),
         BitVec.ofNat 8 t.tables.prescale] ++ beBytes 2 t.tables.divisor
       ++ laneReport (t.lane 0) ++ laneReport (t.lane 1) ++ laneReport (t.lane 2) ++ laneReport (t.lane 3)
       ++ beBytes 4 t.pool ++ beBytes 2 t.transit.length
       ++ beBytes 2 t.req.stray ++ beBytes 2 t.req.tagParity ++ beBytes 2 t.req.extraData
       ++ beBytes 2 t.req.rxOverrun ++ beBytes 2 t.req.txOverrun
       ++ beBytes 4 t.req.itemsCompleted[0] ++ beBytes 4 t.req.itemsCompleted[1]
       ++ beBytes 4 t.req.itemsCompleted[2] ++ beBytes 4 t.req.itemsCompleted[3]
       ++ [BitVec.ofNat 8 (eventFlagBits t.req.events)] := by
  have hcause : resetCauseByte t.req.lastReset =
      (match t.req.lastReset with | .powerOn => (0 : Byte) | .resetLine => 1 | .request => 2) := by
    cases t.req.lastReset <;> rfl
  have hitems : t.req.itemsCompleted.toList =
      [t.req.itemsCompleted[0], t.req.itemsCompleted[1], t.req.itemsCompleted[2], t.req.itemsCompleted[3]] := by
    apply List.ext_getElem (by simp)
    intro i hi _
    have : i < 4 := by simpa using hi
    interval_cases i <;> simp
  rw [State.statusReport, hcause, State.lanes_toList, hitems, beBytes_one, beBytes_one]
  simp only [List.flatMap_cons, List.flatMap_nil, List.append_nil, List.append_assoc, List.cons_append, List.nil_append]

theorem laneReport_length (l : Lane) : (laneReport l).length = 9 := by
  simp [laneReport, beBytes_length]

/-- Settles O30. -/
theorem readStatusReports : Obligations.ReadStatusReports := by
  intro s r h hw hclean t lane events flags report
  have hcheck := requestCheck_clean (kind := 6) hw hclean (k := .readStatus) rfl rfl
  have hreport : t.statusReport = report := by
    rw [State.statusReport_eq, eventFlagBits_eq]
    simp only [laneReport_eq]
    rfl
  constructor
  · rw [← hreport, State.statusReport_eq]
    simp [beBytes_length, laneReport_length]
  · refine congrArg Host.Outcome.next ?_
    rw [show kindReadStatus = 6 from rfl, State.arriveRequest_ok 6 r h hw _ hcheck (by decide)]
    dsimp only
    rw [← hreport]
    exact State.forwarded_reply h (t.withReq { t.req with events := {} }) _ _ (State.forwarded_owed 6 r)
      (State.forwarded_inProgress 6 r)

/-! ## ABORT LANE (R20, R21, R155) -/

theorem State.closingTested_owing (t : State) (j : Nat) (n : Fin 4) (c : Lane) :
    (t.owing j).closingTested n c = (t.closingTested n c).owing j := by
  unfold State.closingTested
  dsimp only
  split <;> rfl

theorem State.closingTested_replies (t : State) (n : Fin 4) (c : Lane) :
    (t.closingTested n c).req.owed = t.req.owed ∧ (t.closingTested n c).req.inProgress = t.req.inProgress := by
  unfold State.closingTested
  dsimp only
  split <;> exact ⟨rfl, rfl⟩

/-- R20, R21: ABORT LANE in a lane whose item it ends, the lane then being `c`. -/
theorem State.abort_closingTested {t : State} {n : Fin 4} {c : Lane} (ha : abortActs (t.lane n) = true)
    (hc : abortItem n (t.lane n) = c) (hs : c.state = .closing) (hq : c.quality.composed.isSome = true) :
    t.abort n = t.closingTested n c := by
  rw [State.abort, if_pos ha, hc, State.setLane_tryQueue _ _ _ hs hq]

theorem abortClosing_eq (n : Fin 4) {l : Lane} (h : l.state = .closing) :
    abortClosing n l =
      compose n
        { l with
          state := .closing
          flags := { l.flags with aborted := true }
          coder := { l.coder with finalB := none, finalG := none } } := by
  rw [← h]; rfl

/-- Settles O31. -/
theorem abortLaneEndsItem : Obligations.AbortLaneEndsItem := by
  intro s r index h hw hclean t
  have hcheck := requestCheck_clean (kind := 7) hw hclean (k := .abortLane) rfl rfl
  have he : exec (.abortLane r) s =
      .next (State.doAbortLane (recorded 7 r) (t.owing (s.req.owed + 1))) := by
    refine congrArg Host.Outcome.next ?_
    rw [show kindAbortLane = 7 from rfl, State.arriveRequest_ok 7 r h hw _ hcheck (by decide)]
  have howed : t.req.owed = s.req.owed := State.forwarded_owed 7 r
  have hin : t.req.inProgress = s.req.inProgress := State.forwarded_inProgress 7 r
  rw [he, State.doAbortLane, requestOperands_recorded hclean (by simp), List.getD_cons_zero]
  refine ⟨fun hi => ?_, ?_⟩
  · rw [dif_neg (by omega)]
    exact congrArg Host.Outcome.next (State.forwarded_reply h t _ _ howed hin)
  intro n hn l aborted dropped
  have hlt : index.toNat < 4 := hn ▸ n.isLt
  obtain rfl : n = ⟨index.toNat, hlt⟩ := Fin.ext hn
  have hlane : (t.owing (s.req.owed + 1)).lane ⟨index.toNat, hlt⟩ = l :=
    congrArg (fun v : Vector Lane 4 => v[index.toNat]) (State.forwarded_frame 7 r s).lanes
  rw [dif_pos hlt]
  have ends {c : Lane} (ha : abortActs l = true) (hc : abortItem ⟨index.toNat, hlt⟩ l = c) (hs : c.state = .closing)
      (hq : c.quality.composed.isSome = true) :
      Host.Outcome.next (State.reply (recorded 7 r) .done [] ((t.owing (s.req.owed + 1)).abort ⟨index.toNat, hlt⟩)) =
        (.next ((t.closingTested ⟨index.toNat, hlt⟩ c).replied 7 r .done []) : Host.Outcome State Fault Refusal) := by
    have hq' := State.closingTested_replies t ⟨index.toNat, hlt⟩ c
    rw [State.abort_closingTested (c := c) (by rw [hlane]; exact ha) (by rw [hlane]; exact hc) hs hq,
      State.closingTested_owing,
      State.forwarded_reply h _ _ _ (hq'.1.trans howed) (hq'.2.trans hin)]
  refine ⟨fun hs => ends ?_ ?_ rfl rfl, fun hs => ends ?_ ?_ rfl rfl, fun hs hf => ends ?_ ?_ rfl rfl, fun hs => ?_⟩
  · simp [abortActs, hs]
  · rw [abortItem, hs]
    rfl
  · simp [abortActs, hs]
  · rw [abortItem, hs]
    rfl
  · simp [abortActs, hs, hf]
  · rw [abortItem, hs]
    exact abortClosing_eq _ hs
  · have ha : ¬abortActs l = true := by
      rcases hs with e | ⟨e, f⟩
      · simp [abortActs, e]
      · simp [abortActs, e, f]
    rw [State.abort, hlane, if_neg ha]
    exact congrArg Host.Outcome.next (State.forwarded_reply h t _ _ howed hin)

/-! ## RESTART PART and RELOAD BOOT (R129, R156, R157) -/

/-- Settles O33. -/
theorem reloadBootBeginsCheckPass : Obligations.ReloadBootBeginsCheckPass := by
  intro s r h hw hclean t
  have hcheck := requestCheck_clean (kind := 9) hw hclean (k := .reloadBoot) rfl rfl
  have he : exec (.reloadBoot r) s =
      .next (State.doReloadBoot (recorded 9 r) (t.owing (s.req.owed + 1))) := by
    refine congrArg Host.Outcome.next ?_
    rw [show kindReloadBoot = 9 from rfl, State.arriveRequest_ok 9 r h hw _ hcheck (by decide)]
  have howed : t.req.owed = s.req.owed := State.forwarded_owed 9 r
  have hin : t.req.inProgress = s.req.inProgress := State.forwarded_inProgress 9 r
  have hidle : (t.owing (s.req.owed + 1)).allIdle = true ↔ ∀ n, (s.lane n).state = .idle := by
    have hlanes : (t.owing (s.req.owed + 1)).lanes = s.lanes := (State.forwarded_frame 9 r s).lanes
    rw [State.allIdle, hlanes, State.lanes_toList]
    simp [Fin.forall_fin_succ]
  rw [he, State.doReloadBoot]
  refine ⟨fun ⟨n, hn⟩ => ?_, fun hall => ?_⟩
  · rw [if_neg (fun e => hn (hidle.1 e n))]
    exact congrArg Host.Outcome.next (State.forwarded_reply h t _ _ howed hin)
  · rw [if_pos (hidle.2 hall), requestTag_recorded]
    have hbus : t.bus = s.bus := (State.forwarded_frame 9 r s).bus
    have hnone : t.req.inProgress = none := hin.trans h.2.1
    refine congrArg Host.Outcome.next ?_
    simp only [State.putBus, State.withBus, State.withBoot, State.withReq, State.owing, hbus, howed, hnone]
    rfl

/-- R156: the state after the restart of a RESTART PART with the given tag, block by block. -/
def State.restarted (tag : Byte) (s : State) : State :=
  { s with
    lrx := {}
    transit := []
    lanes := Vector.replicate 4 laneAtReset
    pool := 131072
    replies := []
    etx :=
      { stack := s.etx.stack
        unwinding := decide (s.etx.stack ≠ [])
        started := some (.request, tag)
        current := settleCurrent s.etx.current
        inFlight := s.etx.inFlight && (settleCurrent s.etx.current).isSome }
    tables := { s.tables with inUse := Vector.replicate 4 0 }
    req := requestUnitAtReset .request
    boot := {}
    bus := if s.boot.phase = .idle then s.bus else .stop :: s.bus
    time := {} }

theorem State.taken_restart (tag : Byte) : (s.taken kind r).restart tag = s.restarted tag := by
  have hstack : (s.etx.stack != []) = decide (s.etx.stack ≠ []) := by
    cases s.etx.stack <;> rfl
  unfold State.restarted
  rw [← hstack]
  rfl

/-- R142, R156: the copy of a RESTART PART is written into the emptied Transit FIFO. -/
theorem State.restarted_copy (tag : Byte) :
    (s.restarted tag).writeCopySymbols (s.taken kind r).lrx.copy (s.taken kind r).lrx.copyCut =
      (s.restarted tag).forwarded kind r := by
  have hb : (s.restarted tag).broadcasts r = s.broadcasts r := rfl
  rw [State.forwarded_eq, hb]
  by_cases h : s.broadcasts r = true
  · have hcopy : (s.taken kind r).lrx.copy = (requestUnitSymbols kind s.partAddress r).take copySymbols := if_pos h
    have hcut : (s.taken kind r).lrx.copyCut = decide (copySymbols < r.length.toNat + 3) :=
      (congrArg (fun b => b && decide (copySymbols < r.length.toNat + 3)) h).trans (Bool.true_and _)
    rw [if_pos h, hcopy, hcut]
    rfl
  · have hcopy : (s.taken kind r).lrx.copy = [] := if_neg h
    rw [if_neg h, hcopy]
    rfl

/-- Settles O32. -/
theorem restartPartRestarts : Obligations.RestartPartRestarts := by
  intro s r h hw hclean
  have hcheck := requestCheck_clean (kind := 8) hw hclean (k := .restartPart) rfl rfl
  refine congrArg Host.Outcome.next ?_
  rw [show kindRestartPart = 8 from rfl, State.arriveRequest_whole 8 r h hw, State.execute, hcheck]
  dsimp only
  rw [State.doRestartPart, requestTag_recorded, State.taken_restart, State.restarted_copy]
  rfl

end Sys2Proof.Machine
end

section
/-! SUPPORT. The stall timer's expiry, the tick, and the CLOSING wait tested again (R15, R16, R19). -/

namespace Sys2Proof.Machine

variable {s : State} {n : Fin 4}

/-! ## The expiry of a stall timer (R16) -/

theorem State.lineEnds_state {l : Lane} : ((s.lineEnds n l).lane n).state = l.state := by
  rw [State.lineEnds_lane]
  exact (ItemFrame.endLine _ _ n l).state

theorem State.lineMadeUp_taking {l : Lane} (a : Nat) (x : Taking) : ((s.lineMadeUp n l a x).lane n).taking = x :=
  State.lineEnds_taking

theorem State.lineMadeUp_state {l : Lane} (a : Nat) (x : Taking) : ((s.lineMadeUp n l a x).lane n).state = l.state :=
  State.lineEnds_state

theorem State.setLane_withTaking {x : Taking} (h : (s.lane n).taking = x) : s.setLane n (withTaking x (s.lane n)) = s := by
  rw [withTaking_self h, State.setLane_self]

/-- R16, R18: the item ends with STALLED, the lane then taking `x`. -/
theorem State.stalled_closeLane (t : State) (x : Taking) (h : (t.lane n).state = .opened ∨ (t.lane n).state = .discard) :
    (let t' := t.setLane n (withTaking x (t.lane n))
     (t'.setLane n { t'.lane n with flags := { (t'.lane n).flags with stalled := true } }).closeLane n) =
      t.itemEnds n { t.lane n with flags := { (t.lane n).flags with stalled := true }, taking := x } := by
  dsimp only
  rw [State.setLane_lane_same]
  exact (State.setLane_closeLane _ n
    (withTaking x { t.lane n with flags := { (t.lane n).flags with stalled := true } }) h).trans
      (State.setLane_itemEnds t n _ _)

/-- R16: an expiry, as the statements spell it out. -/
theorem State.expire_eq (h : (s.lane n).state = .opened ∨ (s.lane n).state = .discard) : s.expire n = s.stallEnds n := by
  unfold State.expire State.stallEnds
  cases ht : (s.lane n).taking with
  | none =>
    have e := State.stalled_closeLane s .none h
    rw [State.setLane_withTaking ht] at e
    exact e
  | header syms => exact State.stalled_closeLane s .dropping h
  | close syms => exact State.stalled_closeLane s .dropping h
  | dropping => exact State.stalled_closeLane s .dropping h
  | line arrived prev =>
    dsimp only
    by_cases hshort : arrived < (s.lane n).header.wIn.toNat
    · rw [if_pos hshort]
      have hc := State.completeLine_short hshort .dropping
      have e := State.stalled_closeLane (n := n) (s.lineMadeUp n (s.lane n) arrived .dropping) .dropping
        ((State.lineMadeUp_state arrived .dropping).symm ▸ h)
      rw [State.setLane_withTaking (State.lineMadeUp_taking arrived .dropping)] at e
      rw [show ({ (s.completeLine n arrived).lane n with taking := .dropping } : Lane) =
        withTaking .dropping ((s.completeLine n arrived).lane n) from rfl, hc]
      exact e
    · have hfull : s.completeLine n arrived = s := if_neg hshort
      rw [if_neg hshort, hfull]
      exact State.stalled_closeLane s .dropping h

/-- R16, R18: lane `n` ends its item with STALLED, taking `x` from then on. -/
def State.endsStalled (n : Fin 4) (x : Taking) (t : State) : State :=
  t.itemEnds n { t.lane n with flags := { (t.lane n).flags with stalled := true }, taking := x }

theorem State.setLane_endsStalled (l : Lane) (x : Taking) :
    (s.setLane n l).endsStalled n x =
      s.itemEnds n { l with flags := { l.flags with stalled := true }, taking := x } := by
  rw [State.endsStalled, State.setLane_lane_same, State.setLane_itemEnds]

/-- R16: the expiry, by what the lane is taking. -/
theorem State.stallEnds_eq (s : State) (n : Fin 4) :
    s.stallEnds n =
      match (s.lane n).taking with
      | .none => s.endsStalled n .none
      | .line arrived _ =>
        if arrived < (s.lane n).header.wIn.toNat then
          (s.lineMadeUp n (s.lane n) arrived .dropping).endsStalled n .dropping
        else s.endsStalled n .dropping
      | .header _ | .close _ | .dropping => s.endsStalled n .dropping := by
  unfold State.stallEnds
  cases (s.lane n).taking <;> rfl

/-- R16: the expiry in a lane that is `l` and takes a line of which pixels are missing. -/
theorem State.setLane_stallEnds_short (l : Lane) {a : Nat} {prev : Byte}
    (hg : l.coder.gTable = (s.lane n).coder.gTable) (ht : l.taking = .line a prev) (ha : a < l.header.wIn.toNat) :
    (s.setLane n l).stallEnds n =
      (let t := s.lineMadeUp n l a .dropping
       t.itemEnds n { t.lane n with flags := { (t.lane n).flags with stalled := true } }) := by
  have hmade : (s.setLane n l).lineMadeUp n l a .dropping = s.lineMadeUp n l a .dropping := State.setLane_lineEnds l hg
  rw [State.stallEnds_eq, State.setLane_lane_same, ht]
  dsimp only
  rw [if_pos ha, hmade]
  have htaking := State.lineMadeUp_taking (s := s) (n := n) (l := l) a .dropping
  generalize s.lineMadeUp n l a .dropping = t at htaking ⊢
  exact congrArg (fun m => State.itemEnds n m t)
    (withTaking_self (l := { t.lane n with flags := { (t.lane n).flags with stalled := true } }) htaking)

/-- R16: the expiry in a lane that is `l` and takes no line, or one with no pixel missing. -/
theorem State.setLane_stallEnds_plain (l : Lane) (h : ∀ a prev, l.taking = .line a prev → l.header.wIn.toNat ≤ a) :
    (s.setLane n l).stallEnds n =
      s.itemEnds n
        { l with
          flags := { l.flags with stalled := true }
          taking := if l.taking = .none then .none else .dropping } := by
  rw [State.stallEnds_eq, State.setLane_lane_same]
  cases ht : l.taking with
  | none => exact State.setLane_endsStalled l .none
  | header syms => exact State.setLane_endsStalled l .dropping
  | close syms => exact State.setLane_endsStalled l .dropping
  | dropping => exact State.setLane_endsStalled l .dropping
  | line a prev =>
    dsimp only
    rw [if_neg (Nat.not_lt.2 (h a prev ht))]
    exact State.setLane_endsStalled l .dropping

theorem stallLimitOf_opened {l : Lane} (h : l.state = .opened) : stallLimitOf l = (snapRecord l.snap).stallLimit.toNat := by
  rw [stallLimitOf, h]

theorem stallLimitOf_discard {l : Lane} (h : l.state = .discard) : stallLimitOf l = 255 := by
  rw [stallLimitOf, h]; rfl

theorem timerRuns_iff (l : Lane) :
    timerRuns l = true ↔ (l.state = .opened ∨ l.state = .discard) ∧ stallLimitOf l ≠ 0 := by
  simp [timerRuns]

/-- Settles O19: the timer at its limit, the expiry is that of R16. -/
theorem stallExpiryEndsItem : Obligations.StallExpiryEndsItem := by
  intro s n limit hs
  have hstate : (s.lane n).state = .opened ∨ (s.lane n).state = .discard := hs.imp And.left And.left
  have hlimit : stallLimitOf (s.lane n) = limit := by
    rcases hs with ⟨ho, hl⟩ | ⟨hd, hl⟩
    · rw [stallLimitOf_opened ho, hl]
    · rw [stallLimitOf_discard hd, hl]
  have hcan : s.expiryCanCome n = true ↔ limit ≠ 0 ∧ s.tables.prescale ≠ 0 ∧ s.ustop = false := by
    simp [State.expiryCanCome, timerRuns_iff, hstate, hlimit, State.ticksCount, and_assoc]
  refine ⟨fun hno => ?_, fun h0 hp hu => ?_⟩
  · refine congrArg Host.Outcome.next (if_neg (mt hcan.1 ?_))
    rintro ⟨h1, h2, h3⟩
    rcases hno with e | e | e
    · exact h1 e
    · exact h2 e
    · simp [h3] at e
  · have he : exec (.stallExpiry n) s =
        .next ((s.setLane n { s.lane n with stallTimer := limit }).stallEnds n) := by
      refine congrArg Host.Outcome.next ((if_pos (hcan.2 ⟨h0, hp, hu⟩)).trans ?_)
      rw [hlimit]
      exact State.expire_eq (by simpa using hstate)
    rw [he]
    refine ⟨fun arrived prev ht hshort => congrArg Host.Outcome.next ?_, fun hfull => congrArg Host.Outcome.next ?_⟩
    · exact State.setLane_stallEnds_short { s.lane n with stallTimer := limit } rfl ht hshort
    · exact State.setLane_stallEnds_plain { s.lane n with stallTimer := limit } hfull

/-! ## The tick (R15, R165) -/

/-- The end of an item of one lane leaves the other lanes alone. -/
theorem State.closingTested_setLane {k : Fin 4} (h : k ≠ n) (l c : Lane) :
    (s.setLane k l).closingTested n c = (s.closingTested n c).setLane k l := by
  have hval : k.val ≠ n.val := fun e => h (Fin.ext e)
  unfold State.closingTested
  dsimp only
  split
  · simp only [State.setLane, Vector.set_comm _ _ hval]
  · simp only [State.setLane, Vector.set_comm _ _ hval]

theorem State.itemEnds_setLane {k : Fin 4} (h : k ≠ n) (l m : Lane) :
    (s.setLane k l).itemEnds n m = (s.itemEnds n m).setLane k l := by
  unfold State.itemEnds
  exact State.closingTested_setLane h l _

theorem State.lineEnds_setLane {k : Fin 4} (h : k ≠ n) (l m : Lane) :
    (s.setLane k l).lineEnds n m = (s.lineEnds n m).setLane k l := by
  have hval : k.val ≠ n.val := fun e => h (Fin.ext e)
  have ht : (s.setLane k l).laneTone n = s.laneTone n :=
    congrArg (fun m : Lane => s.tables.tones[m.coder.gTable]) (State.setLane_lane_ne _ _ _ h.symm)
  rw [State.lineEnds_eq, State.lineEnds_eq, ht]
  simp only [State.setLane, Vector.set_comm _ _ hval] <;> rfl

theorem State.endsStalled_setLane {k : Fin 4} (h : k ≠ n) (l : Lane) (x : Taking) :
    (s.setLane k l).endsStalled n x = (s.endsStalled n x).setLane k l := by
  rw [State.endsStalled, State.setLane_lane_ne _ _ _ h.symm, State.itemEnds_setLane h]
  rfl

theorem State.stallEnds_setLane {k : Fin 4} (h : k ≠ n) (l : Lane) :
    (s.setLane k l).stallEnds n = (s.stallEnds n).setLane k l := by
  rw [State.stallEnds_eq, State.stallEnds_eq s, State.setLane_lane_ne _ _ _ h.symm]
  cases (s.lane n).taking with
  | none => exact State.endsStalled_setLane h l .none
  | header syms => exact State.endsStalled_setLane h l .dropping
  | close syms => exact State.endsStalled_setLane h l .dropping
  | dropping => exact State.endsStalled_setLane h l .dropping
  | line a prev =>
    dsimp only
    split
    · rw [State.lineMadeUp, State.lineEnds_setLane h]
      exact State.endsStalled_setLane h l .dropping
    · exact State.endsStalled_setLane h l .dropping

/-- R15: a lane's stall timer after a tick that reaches it. -/
def raisedTimer (l : Lane) : Lane :=
  if timerRuns l then { l with stallTimer := min (l.stallTimer + 1) (stallLimitOf l) } else l

/-- R15, R16: a tick brings the lane's stall timer to its limit. -/
def expiresOn (l : Lane) : Bool := timerRuns l && decide (stallLimitOf l ≤ l.stallTimer + 1)

/-- R16: lane `n` expires, if the lane is `l` and its timer comes to its limit. -/
def State.expiresIf (l : Lane) (n : Fin 4) (t : State) : State := if expiresOn l then t.stallEnds n else t

theorem State.expiresIf_setLane {k : Fin 4} (h : k ≠ n) (m l : Lane) :
    (s.setLane k m).expiresIf l n = (s.expiresIf l n).setLane k m := by
  unfold State.expiresIf
  split
  · exact State.stallEnds_setLane h m
  · rfl

/-- The expiry of a lane leaves the other lanes alone. -/
theorem State.expiresIf_lane {k : Fin 4} (h : k ≠ n) (l : Lane) : (s.expiresIf l n).lane k = s.lane k := by
  have e := State.expiresIf_setLane h (s.lane k) l (s := s)
  rw [State.setLane_self] at e
  rw [e, State.setLane_lane_same]

/-- R15, R16: a tick in lane `n`: its timer rises, and it expires if it comes to its limit. -/
theorem State.tickLane_eq (t : State) (n : Fin 4) :
    t.tickLane n = (t.setLane n (raisedTimer (t.lane n))).expiresIf (t.lane n) n := by
  unfold State.tickLane State.expiresIf expiresOn raisedTimer
  by_cases hr : timerRuns (t.lane n) = true
  · have hstate : (t.lane n).state = .opened ∨ (t.lane n).state = .discard := ((timerRuns_iff _).1 hr).1
    simp only [hr, if_true, Bool.true_and, decide_eq_true_eq]
    split
    · exact State.expire_eq (by simpa using hstate)
    · rfl
  · simp [hr]

/-- The four lanes raised one after the other are the four raised at once. -/
theorem State.setLane_map (t : State) (f : Lane → Lane) :
    (((t.setLane 0 (f (t.lane 0))).setLane 1 (f (t.lane 1))).setLane 2 (f (t.lane 2))).setLane 3 (f (t.lane 3)) =
      { t with lanes := t.lanes.map f } := by
  have hlanes : (((t.lanes.set 0 (f (t.lane 0))).set 1 (f (t.lane 1))).set 2 (f (t.lane 2))).set 3 (f (t.lane 3)) =
      t.lanes.map f := by
    apply Vector.ext
    intro i hi
    interval_cases i <;> simp [State.lane]
  exact congrArg (fun v => { t with lanes := v }) hlanes

/-- R15, R16: a tick that counts: all timers rise, and those that come to their limits expire in lane order. -/
theorem State.tickLanes_eq (t : State) (h : t.ticksCount = true) :
    t.tickLanes =
      [0, 1, 2, 3].foldl (fun u n => u.expiresIf (t.lane n) n) { t with lanes := t.lanes.map raisedTimer } := by
  rw [← State.setLane_map, State.tickLanes, if_pos h]
  simp only [List.foldl_cons, List.foldl_nil]
  have lanes (k : Fin 4) (u : State) (l : Lane) (n : Fin 4) (m : Lane) (hk : k ≠ n) :
      ((u.setLane n m).expiresIf l n).lane k = u.lane k := by
    rw [State.expiresIf_lane hk, State.setLane_lane_ne _ _ _ hk]
  rw [State.tickLane_eq t, State.tickLane_eq _ 1, State.tickLane_eq _ 2, State.tickLane_eq _ 3]
  rw [lanes 3 _ _ 2 _ (by decide), lanes 3 _ _ 1 _ (by decide), lanes 3 _ _ 0 _ (by decide),
    lanes 2 _ _ 1 _ (by decide), lanes 2 _ _ 0 _ (by decide), lanes 1 _ _ 0 _ (by decide)]
  simp only [State.expiresIf_setLane (show (1 : Fin 4) ≠ 0 by decide), State.expiresIf_setLane (show (2 : Fin 4) ≠ 0 by decide),
    State.expiresIf_setLane (show (2 : Fin 4) ≠ 1 by decide), State.expiresIf_setLane (show (3 : Fin 4) ≠ 0 by decide),
    State.expiresIf_setLane (show (3 : Fin 4) ≠ 1 by decide), State.expiresIf_setLane (show (3 : Fin 4) ≠ 2 by decide)]

/-- Settles O42: the lanes are ticked one after the other, but no lane's tick reads or writes another lane. -/
theorem tickReachesStallTimers : Obligations.TickReachesStallTimers := by
  intro s hp restarted raised expires
  have he : exec .tick s = .next (s.withTime restarted).tickLanes := congrArg Host.Outcome.next (if_neg hp)
  refine ⟨fun hu => ?_, fun hu => ?_⟩
  · have hno : ¬(s.withTime restarted).ticksCount = true := by
      rw [Bool.not_eq_true]
      exact congrArg not hu
    rw [he, State.tickLanes, if_neg hno]
  · have hcount : (s.withTime restarted).ticksCount = true := congrArg not hu
    rw [he, State.tickLanes_eq _ hcount]
    refine congrArg Host.Outcome.next ?_
    have hfold : (fun (u : State) (n : Fin 4) => u.expiresIf ((s.withTime restarted).lane n) n) =
        fun t n => if expires n then t.stallEnds n else t := by
      funext u n
      have hiff : expiresOn (s.lane n) = true ↔ expires n := by simp [expiresOn, expires]
      exact if_congr hiff rfl rfl
    rw [hfold]
    rfl

/-! ## The CLOSING wait tested again (R19, R141) -/

theorem State.holdsFor_iff : s.holdsFor n ↔ s.lrx.hold.bind heldLane = some n := by
  unfold State.holdsFor
  cases s.lrx.hold with
  | none => simp
  | some held =>
    by_cases hk : tagKind held.unit.tag = 3
    · have e : heldLane held = none := if_pos hk
      simp [e, hk]
    · have e : heldLane held = held.data.head?.map fun sym => Fin.ofNat 4 (symValue sym).toNat := if_neg hk
      simp only [Option.mem_def, Option.some.injEq, exists_eq_left', Option.bind_some, e, Option.map_eq_some_iff]
      exact and_iff_right hk

/-- R19: the CLOSING wait of a lane that waits with its result composed. -/
theorem State.tryQueue_closing (hs : (s.lane n).state = .closing) (hc : (s.lane n).quality.composed.isSome = true) :
    s.tryQueue n = s.closingTested n (s.lane n) := by
  have e := State.setLane_tryQueue s n (s.lane n) hs hc
  rwa [State.setLane_self] at e

/-- Settles O20. -/
theorem closingLaneQueuesWhenRoom : Obligations.ClosingLaneQueuesWhenRoom := by
  intro s n
  refine ⟨?_, fun h => ?_⟩
  · intro t hs hc
    have ht : s.tryQueue n = t := State.tryQueue_closing hs hc
    by_cases hq : canQueue (s.lane n) = true
    · have hend : s.endClosing n = t := (if_pos hq).symm.trans ht
      have hlrx : t.lrx = s.lrx := hend ▸ (LaneFrame.endClosing n s).lrx
      have hidle : (t.lane n).state = .idle := by
        rw [← hend, State.endClosing_lane]; rfl
      have he : exec (.closingQueue n) s = .next (t.presentLaneAgain n) :=
        congrArg Host.Outcome.next ((if_pos hq).trans (congrArg (State.presentLaneAgain n) hend))
      rw [he]
      refine ⟨fun hno => congrArg Host.Outcome.next (if_neg ?_), fun _ hh => congrArg Host.Outcome.next (if_pos ?_)⟩
      · rw [hlrx, ← State.holdsFor_iff]
        exact fun hh => hno ⟨hidle, hh⟩
      · rw [hlrx, ← State.holdsFor_iff]
        exact hh
    · have hsame : s = t := (if_neg hq).symm.trans ht
      have he : exec (.closingQueue n) s = .next s := congrArg Host.Outcome.next (if_neg hq)
      refine ⟨fun _ => he.trans (congrArg Host.Outcome.next hsame), fun hidle => ?_⟩
      rw [← hsame, hs] at hidle
      simp at hidle
  · have hq : ¬canQueue (s.lane n) = true := by
      intro hq
      simp only [canQueue, Bool.and_eq_true, beq_iff_eq] at hq
      exact h hq.1
    exact congrArg Host.Outcome.next (if_neg hq)

end Sys2Proof.Machine
end

section
/-! SUPPORT. What ETX sends: the symbols of a transit unit and of an own unit, the unit that begins at a boundary, and the
rest of a unit (R119 to R130). -/

namespace Sys2Proof.Machine

variable {s : State}

/-! ## One symbol of a transit unit (R125, R144) -/

theorem State.sendNext_transit {len k : Nat} (h : s.etx.current = some ⟨.transit len, k⟩) {y : TransitSymbol}
    {rest : List TransitSymbol} (ht : s.transit = y :: rest) :
    s.sendNext =
      ((s.withTransit rest).withDtx (y.sym :: s.dtx)).withEtx
        { s.etx with
          current := if k + 1 = len + 3 ∨ y.endMark = true then none else some ⟨.transit len, k + 1⟩
          inFlight := false } := by
  rw [State.sendNext, h]
  dsimp only
  rw [State.sendTransit, ht]
  dsimp only
  by_cases hend : k + 1 = len + 3 ∨ y.endMark = true
  · rw [if_pos hend, if_pos hend]; rfl
  · rw [if_neg hend, if_neg hend]; rfl

theorem State.sendNext_waits {len k : Nat} (h : s.etx.current = some ⟨.transit len, k⟩) (ht : s.transit = []) :
    s.sendNext = s := by
  rw [State.sendNext, h]
  dsimp only
  rw [State.sendTransit, ht]

theorem State.portOpen_iff : s.portOpen = true ↔ s.dstop = false ∨ s.etx.inFlight = true := by
  simp [State.portOpen]

/-- Settles O39. -/
theorem transitSymbolSent : Obligations.TransitSymbolSent := by
  intro s len k hc hopen
  have he : exec .symbolSent s = .next s.sendNext := congrArg Host.Outcome.next (if_pos (State.portOpen_iff.2 hopen))
  rw [he]
  exact ⟨fun ht => congrArg Host.Outcome.next (State.sendNext_waits hc ht),
    fun y rest ht => congrArg Host.Outcome.next (State.sendNext_transit hc ht)⟩

/-! ## One symbol of an own unit (R119, R120) -/

theorem State.sendNext_own {what : Sending} {k : Nat} (h : s.etx.current = some ⟨what, k⟩)
    (hown : ∀ len, what ≠ .transit len) : s.sendNext = s.sendOwn what k := by
  rw [State.sendNext, h]
  cases what with
  | transit len => exact absurd rfl (hown len)
  | _ => rfl

/-- The tag of an own unit that has begun. -/
theorem State.sendNext_tag {e : Etx} {what : Sending} {tag : Symbol} {rest : List Symbol}
    (hc : e.current = some ⟨what, 0⟩) (hown : ∀ len, what ≠ .transit len) (hs : ownSymbols what = tag :: rest)
    (hr : rest ≠ []) :
    (s.withEtx e).sendNext =
      (s.withDtx (tag :: s.dtx)).withEtx { e with current := some ⟨what, 1⟩, inFlight := false } := by
  have hlen : ¬0 + 1 = (ownSymbols what).length := by
    rw [hs, List.length_cons]
    have := List.length_pos_iff.2 hr
    omega
  have hfirst : (ownSymbols what)[0]? = some tag := by rw [hs]; rfl
  rw [State.sendNext_own hc hown, State.sendOwn, hfirst]
  dsimp only
  rw [if_neg hlen]
  cases what <;> rfl

theorem unitSymbols_eq (kind : BitVec 3) (addr : BitVec 5) (data : List Byte) :
    ∃ rest, rest ≠ [] ∧ unitSymbols kind addr data = tagSymbol kind addr :: rest :=
  ⟨_, by simp [beBytes], rfl⟩

/-! ## The unit that begins at a boundary (R121 to R130) -/

theorem State.emitUnitBegin_atBoundary (h : s.atBoundary) : exec .emitUnitBegin s = .next s.beginUnit.sendNext := by
  obtain ⟨hr, hs, hd, hc⟩ := h
  refine congrArg Host.Outcome.next (if_pos ?_)
  simp [State.mayBegin, hr, hs, hd, hc]

/-- R123, R129: the top entry's unit begins. -/
theorem State.continues_sendNext {kind : BitVec 3} {what : Sending} {data : List Byte}
    (hown : ∀ len, what ≠ .transit len) (hw : ownSymbols what = unitSymbols kind s.partAddress data) :
    (s.withEtx { s.etx with alternation := .own, current := some { what := what } }).sendNext = s.continues kind what := by
  obtain ⟨rest, hne, hu⟩ := unitSymbols_eq kind s.partAddress data
  exact State.sendNext_tag rfl hown (hw.trans hu) hne

/-- R122, R123: the SEG OPEN of a source begins. -/
theorem State.pushSource_sendNext (src : Source) (cls : Nat) :
    (s.pushSource src cls).sendNext = s.opens src cls (s.headerOfSource src) := by
  obtain ⟨rest, hne, hu⟩ := unitSymbols_eq kindSegOpen s.partAddress (s.headerOfSource src)
  exact State.sendNext_tag rfl nofun hu hne

/-- R123: the unit at the resume point of the top entry, whose segment is `g`. -/
theorem State.continueTop_sendNext (top : StackEntry) {g : Segment} (h : s.segmentOf top.source = some g) :
    (s.continueTop top).sendNext = s.continues (unitKind top.resume) (unitAt s.partAddress g top.resume) := by
  have hbody : s.bodyOf top.source = g.body := by rw [State.bodyOf, h]; rfl
  have hheader : s.headerOfSource top.source = headerBytes g.header := by rw [State.headerOfSource, h]; rfl
  rw [State.continueTop, hbody, hheader]
  cases top.resume with
  | segOpen => exact State.continues_sendNext nofun rfl
  | chunk k => exact State.continues_sendNext nofun rfl
  | segClose => exact State.continues_sendNext nofun rfl

theorem startedSegment_eq (cause : ResetCause) (tag : Byte) (addr : BitVec 5) :
    startedSegment cause tag addr =
      ⟨.reply tag 255 .done addr, [match cause with | .powerOn => 0 | .resetLine => 1 | .request => 2]⟩ := by
  cases cause <;> rfl

/-- Settles O37. -/
theorem owedUnitsGoFirst : Obligations.OwedUnitsGoFirst := by
  intro s h
  rw [State.emitUnitBegin_atBoundary h]
  refine ⟨fun top rest hs hu => congrArg Host.Outcome.next ?_, fun cause tag hs hst => congrArg Host.Outcome.next ?_,
    fun top rest cause tag hs hu hsrc => congrArg Host.Outcome.next ?_⟩
  · rw [State.beginUnit, hs, hu]
    exact State.continues_sendNext nofun rfl
  · rw [State.beginUnit, hs, hst]
    exact State.pushSource_sendNext (.started cause tag) 2
  · have hn : isNotice top = true := by rw [isNotice, hsrc]
    have hseg : s.segmentOf top.source = some (startedSegment cause tag s.partAddress) := by rw [hsrc]; rfl
    rw [State.beginUnit, hs, hu]
    dsimp only
    rw [if_pos hn, State.continueTop_sendNext top hseg, startedSegment_eq] <;> rfl

/-! ## The choice among the candidates (R121, R122) -/

theorem onStack_iff (e : Etx) (src : Source) : onStack e src = false ↔ ∀ entry ∈ e.stack, entry.source ≠ src := by
  simp [onStack]

theorem State.laneOffers_iff (n : Fin 4) (cls : Nat) : s.laneOffers n = some cls ↔ s.offers (.lane n) cls := by
  have ho : s.offers (.lane n) cls ↔
      onStack s.etx (.lane n) = false ∧ (s.lane n).store.head?.map (fun g => headerClass g.header) = some cls :=
    and_congr_left' (onStack_iff _ _).symm
  rw [ho, State.laneOffers]
  by_cases h : onStack s.etx (.lane n) = true
  · simp [h]
  · rw [if_neg h]
    exact ⟨fun e => ⟨by simpa using h, e⟩, And.right⟩

theorem State.replyOffers_iff : s.replyOffers = true ↔ s.offers .reply 2 := by
  simp [State.replyOffers, State.offers, ← onStack_iff, and_comm]

theorem State.offers_reply {c : Nat} (h : s.offers .reply c) : c = 2 := h.2.2

theorem State.pickLane_eq_none {ptr : Fin 4} {cls : Nat} (h : ∀ n, ¬s.offers (.lane n) cls) :
    s.pickLane ptr cls = none := by
  refine List.find?_eq_none.2 fun n _ => ?_
  rw [beq_iff_eq, State.laneOffers_iff]
  exact h n

theorem tryOrder_eq : ∀ ptr : Fin 4, tryOrder ptr = (List.finRange 4).map fun i => ptr + 1 + i := by decide

/-- R122: the first lane after the pointer that offers the class is picked. -/
theorem State.pickLane_first {ptr : Fin 4} {cls : Nat} {j : Fin 4} (h : s.offers (.lane (ptr + 1 + j)) cls)
    (hfirst : ∀ i < j, ¬s.offers (.lane (ptr + 1 + i)) cls) : s.pickLane ptr cls = some (ptr + 1 + j) := by
  rw [State.pickLane, tryOrder_eq, List.find?_eq_some_iff_getElem]
  refine ⟨by rw [beq_iff_eq, State.laneOffers_iff]; exact h, j.val, by simp, by simp, fun i hi => ?_⟩
  have hlane := hfirst ⟨i, by omega⟩ hi
  rw [← State.laneOffers_iff] at hlane
  simpa using hlane

/-- R122: with nothing on offer of the class wanted or above, there is no choice. -/
theorem State.choose_none {floor : Nat} (h : ∀ src c, s.offers src c → c < floor) : s.choose floor = none := by
  have hreply : ¬(s.replyOffers && decide (floor ≤ 2)) = true := by
    rw [Bool.and_eq_true, State.replyOffers_iff, decide_eq_true_iff]
    rintro ⟨ho, hf⟩
    have := h _ _ ho
    omega
  have hlane (ptr : Fin 4) (cls : Nat) (hf : floor ≤ cls) : s.pickLane ptr cls = none :=
    State.pickLane_eq_none fun n ho => absurd (h _ _ ho) (Nat.not_lt.2 hf)
  have hone : (if floor ≤ 1 then s.pickLane s.etx.rr1 1 else none) = none := by
    split
    · exact hlane _ _ ‹_›
    · rfl
  have hzero : (if floor = 0 then s.pickLane s.etx.rr0 0 else none) = none := by
    split
    · exact hlane _ _ (by omega)
    · rfl
  rw [State.choose, if_neg hreply, hone, hzero]
  rfl

/-- R122: a reply goes before the lanes. -/
theorem State.choose_reply {floor : Nat} (h : s.offers .reply 2) (hf : floor ≤ 2) :
    s.choose floor = some (.reply, 2) :=
  if_pos (by rw [Bool.and_eq_true, State.replyOffers_iff, decide_eq_true_iff]; exact ⟨h, hf⟩)

/-- R122: without a reply on offer, a lane of class 1 goes before those of class 0. -/
theorem State.choose_lane {floor cls : Nat} {j : Fin 4} (hcls : cls ≤ 1) (hf : floor ≤ cls)
    (h : s.offers (.lane (s.pointer cls + 1 + j)) cls) (hmax : ∀ src c, s.offers src c → c ≤ cls)
    (hfirst : ∀ i < j, ¬s.offers (.lane (s.pointer cls + 1 + i)) cls) :
    s.choose floor = some (.lane (s.pointer cls + 1 + j), cls) := by
  have hreply : ¬(s.replyOffers && decide (floor ≤ 2)) = true := by
    rw [Bool.and_eq_true, State.replyOffers_iff]
    rintro ⟨ho, -⟩
    have := hmax _ _ ho
    omega
  have hpick := State.pickLane_first h hfirst
  rw [State.choose, if_neg hreply]
  obtain rfl | rfl : cls = 0 ∨ cls = 1 := by omega
  · have hone : (if floor ≤ 1 then s.pickLane s.etx.rr1 1 else none) = none := by
      rw [if_pos (by omega)]
      exact State.pickLane_eq_none fun n ho => absurd (hmax _ _ ho) (by decide)
    rw [hone, if_pos (Nat.le_zero.1 hf), show s.pickLane s.etx.rr0 0 = _ from hpick]
    rfl
  · rw [if_pos hf, show s.pickLane s.etx.rr1 1 = _ from hpick]

/-! ## The own unit (R123) -/

theorem State.ownUnit_choice {c : Source × Nat} (h : s.choose s.floor = some c) :
    s.ownUnit = some ((s.withEtx (setPointer s.etx c.1 c.2)).pushSource c.1 c.2) := by
  unfold State.ownUnit
  unfold State.floor at h
  cases hs : s.etx.stack with
  | nil =>
    rw [hs] at h
    dsimp only at h ⊢
    rw [h]
    rfl
  | cons top rest =>
    rw [hs] at h
    dsimp only at h ⊢
    rw [h]

theorem State.ownUnit_none (hs : s.etx.stack = []) (h : s.choose s.floor = none) : s.ownUnit = none := by
  unfold State.ownUnit
  unfold State.floor at h
  rw [hs] at h ⊢
  dsimp only at h ⊢
  rw [h]
  rfl

theorem State.ownUnit_continued {top : StackEntry} {rest : List StackEntry} (hs : s.etx.stack = top :: rest)
    (h : s.choose s.floor = none) : s.ownUnit = some (s.continueTop top) := by
  unfold State.ownUnit
  unfold State.floor at h
  rw [hs] at h ⊢
  dsimp only at h ⊢
  rw [h]

/-- R125: nothing being owed, ETX makes the choice of R125. -/
theorem State.beginUnit_alternate (h : s.nothingOwed) : s.beginUnit = s.alternate := by
  obtain ⟨hu, hst, hsrc⟩ := h
  unfold State.beginUnit
  cases hs : s.etx.stack with
  | nil => rw [hst hs]
  | cons top rest =>
    have hn : ¬isNotice top = true := by
      have hsrc' := hsrc top (by rw [hs]; rfl)
      unfold isNotice
      cases htop : top.source with
      | started cause tag => exact absurd htop (hsrc' cause tag)
      | lane n => simp
      | reply => simp
    rw [hu]
    exact if_neg hn

theorem State.transitUnit_none (h : s.transit.length < 3) : s.transitUnit = none := by
  unfold State.transitUnit
  match ht : s.transit with
  | [] => rfl
  | [_] => rfl
  | [_, _] => rfl
  | _ :: _ :: _ :: _ => exact absurd h (by rw [ht]; simp only [List.length_cons]; omega)

theorem State.alternate_own {own : State} (ho : s.ownUnit = some own) (ht : s.transitUnit = none) : s.alternate = own := by
  rw [State.alternate, ho, ht]

theorem State.alternate_fill (ho : s.ownUnit = none) (ht : s.transitUnit = none) : s.alternate = s.beginFill := by
  rw [State.alternate, ho, ht]

/-- Settles O35. -/
theorem emissionChoosesHighestClass : Obligations.EmissionChoosesHighestClass := by
  intro s h hn ht
  have htransit := State.transitUnit_none ht
  rw [State.emitUnitBegin_atBoundary h, State.beginUnit_alternate hn]
  refine ⟨fun g rest hg ho hf => congrArg Host.Outcome.next ?_, ?_, fun hmax => ⟨fun hs => ?_, ?_⟩⟩
  · have hheader : s.headerOfSource .reply = headerBytes g.header := by
      rw [State.headerOfSource, State.segmentOf, hg]; rfl
    rw [State.alternate_own (State.ownUnit_choice (State.choose_reply ho hf)) htransit, ← hheader]
    exact State.pushSource_sendNext .reply 2
  · intro cls j g n hcls hf ho hg hmax hfirst
    refine congrArg Host.Outcome.next ?_
    have hheader : s.headerOfSource (.lane n) = headerBytes g.header := by
      rw [State.headerOfSource, State.segmentOf, hg]; rfl
    have hpointer : setPointer s.etx (.lane n) cls = if cls = 0 then { s.etx with rr0 := n } else { s.etx with rr1 := n } := by
      obtain rfl | rfl : cls = 0 ∨ cls = 1 := by omega
      · rfl
      · rfl
    rw [State.alternate_own (State.ownUnit_choice (State.choose_lane hcls hf ho hmax hfirst)) htransit, ← hheader,
      ← hpointer]
    exact State.pushSource_sendNext (.lane n) cls
  · rw [State.alternate_fill (State.ownUnit_none hs (State.choose_none hmax)) htransit]
    exact congrArg Host.Outcome.next (State.sendNext_tag (what := .fill (unitSymbols kindFill s.partAddress [])) rfl nofun rfl (by simp [beBytes]))
  · intro top rest g hs hg
    rw [State.alternate_own (State.ownUnit_continued hs (State.choose_none hmax)) htransit,
      State.continueTop_sendNext top hg]

/-! ## Transit units alternate with own units (R125) -/

theorem State.transitUnit_ready {tag hi lo : TransitSymbol} {rest : List TransitSymbol}
    (h : s.transit = tag :: hi :: lo :: rest) : s.transitUnit = some (s.beginTransit hi lo) := by
  rw [State.transitUnit, h]

theorem State.beginTransit_sendNext {tag hi lo : TransitSymbol} {rest : List TransitSymbol}
    (h : s.transit = tag :: hi :: lo :: rest) :
    (s.beginTransit hi lo).sendNext =
      ((s.withTransit (hi :: lo :: rest)).withDtx (tag.sym :: s.dtx)).withEtx
        { s.etx with
          alternation := .transit
          current := if tag.endMark then none else some ⟨.transit (lengthOf hi.sym lo.sym), 1⟩
          inFlight := false } := by
  have hcur : (s.beginTransit hi lo).etx.current = some ⟨.transit (lengthOf hi.sym lo.sym), 0⟩ := rfl
  have hone : ¬0 + 1 = lengthOf hi.sym lo.sym + 3 := by omega
  rw [State.sendNext_transit hcur (y := tag) (rest := hi :: lo :: rest) h]
  simp only [hone, false_or]
  rfl

theorem State.alternate_transit {unit : State} (ht : s.transitUnit = some unit)
    (h : s.etx.alternation = .own ∨ s.ownUnit = none) : s.alternate = unit := by
  rw [State.alternate, ht]
  cases ho : s.ownUnit with
  | none => rfl
  | some own => exact if_pos (h.resolve_right (by simp [ho]))

/-- The choice of the own unit does not read the Transit FIFO. -/
theorem State.ownUnit_withTransit (v : List TransitSymbol) :
    (s.withTransit v).ownUnit = s.ownUnit.map fun own => own.withTransit v := by
  have hchoose : ∀ floor, (s.withTransit v).choose floor = s.choose floor := fun _ => rfl
  unfold State.ownUnit
  rw [show (s.withTransit v).etx.stack = s.etx.stack from rfl]
  cases s.etx.stack with
  | nil =>
    dsimp only
    rw [hchoose]
    cases s.choose 0 <;> rfl
  | cons top rest =>
    dsimp only
    rw [hchoose]
    cases s.choose (top.cls + 1) <;> rfl

/-- An own unit about to send its tag. -/
structure OwnBegun (own : State) (what : Sending) (tag : Symbol) (rest : List Symbol) : Prop where
  current : own.etx.current = some ⟨what, 0⟩
  mine : ∀ len, what ≠ .transit len
  symbols : ownSymbols what = tag :: rest
  more : rest ≠ []

theorem State.pushSource_begun (src : Source) (cls : Nat) : ∃ what tag rest, OwnBegun (s.pushSource src cls) what tag rest := by
  obtain ⟨rest, hne, hu⟩ := unitSymbols_eq kindSegOpen s.partAddress (s.headerOfSource src)
  exact ⟨_, _, rest, rfl, nofun, hu, hne⟩

theorem State.continueTop_begun (top : StackEntry) : ∃ what tag rest, OwnBegun (s.continueTop top) what tag rest := by
  unfold State.continueTop
  cases top.resume with
  | segOpen =>
    obtain ⟨rest, hne, hu⟩ := unitSymbols_eq kindSegOpen s.partAddress (s.headerOfSource top.source)
    exact ⟨_, _, rest, rfl, nofun, hu, hne⟩
  | chunk k =>
    obtain ⟨rest, hne, hu⟩ := unitSymbols_eq kindChunk s.partAddress (chunkData (s.bodyOf top.source) k)
    exact ⟨_, _, rest, rfl, nofun, hu, hne⟩
  | segClose =>
    obtain ⟨rest, hne, hu⟩ := unitSymbols_eq kindSegClose s.partAddress (segCloseData (s.bodyOf top.source).length 0)
    exact ⟨_, _, rest, rfl, nofun, hu, hne⟩

theorem State.ownUnit_begun {own : State} (h : s.ownUnit = some own) :
    (∃ what tag rest, OwnBegun own what tag rest) ∧ own.transit = s.transit := by
  unfold State.ownUnit at h
  split at h
  · obtain ⟨c, -, rfl⟩ := Option.map_eq_some_iff.1 h
    exact ⟨State.pushSource_begun c.1 c.2, rfl⟩
  · split at h
    · obtain rfl := Option.some.inj h
      exact ⟨State.pushSource_begun _ _, rfl⟩
    · obtain rfl := Option.some.inj h
      exact ⟨State.continueTop_begun _, rfl⟩

theorem OwnBegun.sendNext {own : State} {what : Sending} {tag : Symbol} {rest : List Symbol}
    (b : OwnBegun own what tag rest) :
    own.sendNext =
      (own.withDtx (tag :: own.dtx)).withEtx { own.etx with current := some ⟨what, 1⟩, inFlight := false } :=
  State.sendNext_tag (s := own) (e := own.etx) b.current b.mine b.symbols b.more

/-- The first symbol of an own unit does not read the Transit FIFO. -/
theorem OwnBegun.sendNext_withTransit {own : State} {what : Sending} {tag : Symbol} {rest : List Symbol}
    (b : OwnBegun own what tag rest) (v : List TransitSymbol) :
    (own.withTransit v).sendNext = own.sendNext.withTransit v := by
  have b' : OwnBegun (own.withTransit v) what tag rest := ⟨b.current, b.mine, b.symbols, b.more⟩
  rw [b.sendNext, b'.sendNext]
  rfl

theorem mem_tryOrder : ∀ ptr n : Fin 4, n ∈ tryOrder ptr := by decide

theorem State.pickLane_ne_none {ptr n : Fin 4} {cls : Nat} (h : s.offers (.lane n) cls) : s.pickLane ptr cls ≠ none := by
  intro e
  have hn := List.find?_eq_none.1 e n (mem_tryOrder ptr n)
  rw [beq_iff_eq, State.laneOffers_iff] at hn
  exact hn h

/-- R122: on an empty stack, a lane of either class is chosen if no candidate goes before it. -/
theorem State.choose_ne_none {n : Fin 4} {cls : Nat} (hcls : cls ≤ 1) (h : s.offers (.lane n) cls) : s.choose 0 ≠ none := by
  unfold State.choose
  split
  · simp
  · rw [if_pos (by decide), if_pos rfl]
    cases hone : s.pickLane s.etx.rr1 1 with
    | some m => simp
    | none =>
      obtain rfl | rfl : cls = 0 ∨ cls = 1 := by omega
      · simpa using State.pickLane_ne_none h
      · exact absurd hone (State.pickLane_ne_none h)

/-- R122: an own unit is ready while the stack holds an entry or something is on offer. -/
theorem State.ownUnit_isSome (h : s.etx.stack ≠ [] ∨ s.offers .reply 2 ∨ ∃ n c, c ≤ 1 ∧ s.offers (.lane n) c) :
    ∃ own, s.ownUnit = some own := by
  cases hs : s.etx.stack with
  | cons top rest =>
    cases hc : s.choose s.floor with
    | none => exact ⟨_, State.ownUnit_continued hs hc⟩
    | some c => exact ⟨_, State.ownUnit_choice hc⟩
  | nil =>
    have hfloor : s.floor = 0 := by rw [State.floor, hs]
    cases hc : s.choose s.floor with
    | some c => exact ⟨_, State.ownUnit_choice hc⟩
    | none =>
      rw [hfloor] at hc
      rcases h with e | ho | ⟨n, c, hle, ho⟩
      · exact absurd hs e
      · rw [State.choose_reply ho (by decide)] at hc
        simp at hc
      · exact absurd hc (State.choose_ne_none hle ho)

/-- Settles O36. -/
theorem transitAndOwnUnitsAlternate : Obligations.TransitAndOwnUnitsAlternate := by
  intro s tag hi lo rest h hn ht begun
  have htransit := State.transitUnit_ready ht
  have hbegun : (s.beginTransit hi lo).sendNext = begun := State.beginTransit_sendNext ht
  have he : exec .emitUnitBegin s = .next s.alternate.sendNext := by
    rw [State.emitUnitBegin_atBoundary h, State.beginUnit_alternate hn]
  rw [he]
  refine ⟨fun ha => ?_, fun ha hs hno => ?_, fun ha hown => ?_⟩
  · rw [State.alternate_transit htransit (.inl ha), hbegun]
  · have hnone : s.ownUnit = none :=
      State.ownUnit_none hs (State.choose_none fun src c ho => absurd ho (hno src c))
    rw [State.alternate_transit htransit (.inr hnone), hbegun]
  · obtain ⟨own, ho⟩ := State.ownUnit_isSome hown
    obtain ⟨⟨what, first, more, hb⟩, hsame⟩ := State.ownUnit_begun ho
    have hempty : exec .emitUnitBegin (s.withTransit []) = .next (own.withTransit []).sendNext := by
      have ho' : (s.withTransit []).ownUnit = some (own.withTransit []) := by rw [State.ownUnit_withTransit, ho]; rfl
      rw [State.emitUnitBegin_atBoundary (s := s.withTransit []) h, State.beginUnit_alternate (s := s.withTransit []) hn,
        State.alternate_own ho' rfl]
    have hfull : s.alternate = own := by
      rw [State.alternate, ho, htransit]
      exact if_neg (by simp [ha])
    refine ⟨_, hempty, ?_⟩
    rw [hfull, hb.sendNext_withTransit, State.withTransit_withTransit, ← hsame, hb.sendNext]
    rfl

end Sys2Proof.Machine
end

section
/-! SUPPORT. The symbols of an own unit up to its last one, what the last one does, and UNIT_END (R117 to R120, R127). -/

namespace Sys2Proof.Machine

variable {s : State}

/-! ## One symbol (R119, R120) -/

/-- R120: the stack after a symbol of the current unit: a chunk's data symbols count in the top entry. -/
def stackAfter (what : Sending) (k : Nat) (stack : List StackEntry) : List StackEntry :=
  match what, stack with
  | .chunk _ _, top :: rest => (if 3 ≤ k then { top with sent := top.sent + 1 } else top) :: rest
  | _, stack => stack

/-- The state after a symbol of an own unit has left, before the unit's end. -/
def State.sentOwn (what : Sending) (k : Nat) (sym : Symbol) (s : State) : State :=
  (s.withDtx (sym :: s.dtx)).withEtx
    { s.etx with current := some ⟨what, k + 1⟩, inFlight := false, stack := stackAfter what k s.etx.stack }

theorem State.sendOwn_eq {what : Sending} {k : Nat} {sym : Symbol} (h : (ownSymbols what)[k]? = some sym) :
    s.sendOwn what k =
      if k + 1 = (ownSymbols what).length then (s.sentOwn what k sym).endUnit what else s.sentOwn what k sym := by
  have e : (((s.sendSymbol sym).withEtx
      { s.etx with current := some { what := what, sent := k + 1 }, inFlight := false }).countBody what k) =
      s.sentOwn what k sym := by
    cases what with
    | chunk n syms =>
      unfold State.sentOwn stackAfter State.countBody
      by_cases h3 : 3 ≤ k
      · cases hs : s.etx.stack with
        | nil => simp [h3, hs, changeTop, State.sendSymbol]
        | cons top rest => simp [h3, hs, changeTop, State.sendSymbol]
      · cases hs : s.etx.stack with
        | nil => simp [h3, hs, State.sendSymbol]
        | cons top rest => simp [h3, hs, State.sendSymbol]
    | _ => rfl
  rw [State.sendOwn, h]
  dsimp only
  rw [← e]

/-- R120: SYMBOL_SENT in an own unit. -/
theorem State.symbolSent_own {what : Sending} {k : Nat} {sym : Symbol} (hc : s.etx.current = some ⟨what, k⟩)
    (hown : ∀ len, what ≠ .transit len) (h : (ownSymbols what)[k]? = some sym)
    (hopen : s.dstop = false ∨ s.etx.inFlight = true) :
    s.symbolSent =
      if k + 1 = (ownSymbols what).length then (s.sentOwn what k sym).endUnit what else s.sentOwn what k sym := by
  rw [State.symbolSent, if_pos (State.portOpen_iff.2 hopen), State.sendNext_own hc hown, State.sendOwn_eq h]

theorem resumeAt_zero (body : List Byte) :
    resumeAt body.length 0 = if body = [] then .segClose else .chunk 0 := by
  cases body <;> simp [resumeAt]

theorem State.topBody_eq {top : StackEntry} {rest : List StackEntry} {g : Segment} (hs : s.etx.stack = top :: rest)
    (hg : s.segmentOf top.source = some g) : s.topBody = g.body.length := by
  rw [State.topBody, hs]
  dsimp only
  rw [State.bodyOf, hg]
  rfl

/-- R120: the end of a SEG OPEN. -/
theorem State.endUnit_segOpen {top : StackEntry} {rest : List StackEntry} {g : Segment} (syms : List Symbol)
    (hs : s.etx.stack = top :: rest) (hg : s.segmentOf top.source = some g) :
    s.endUnit (.segOpen syms) =
      s.withEtx
        { s.etx with
          current := none
          inFlight := false
          stack := { top with resume := if g.body = [] then .segClose else .chunk 0 } :: rest } := by
  have hb : (s.withEtx { s.etx with current := none, inFlight := false }).topBody = g.body.length :=
    State.topBody_eq hs hg
  rw [State.endUnit]
  dsimp only
  rw [hb, resumeAt_zero]
  simp only [State.withEtx_etx, State.withEtx_withEtx, hs, changeTop]

/-- R120: the end of a CHUNK. -/
theorem State.endUnit_chunk {top : StackEntry} {rest : List StackEntry} {g : Segment} (n : Nat) (syms : List Symbol)
    (hs : s.etx.stack = top :: rest) (hg : s.segmentOf top.source = some g) :
    s.endUnit (.chunk n syms) =
      s.withEtx
        { s.etx with
          current := none
          inFlight := false
          stack :=
            { top with resume := if 256 * (n + 1) < g.body.length then .chunk (n + 1) else .segClose } :: rest } := by
  have hb : (s.withEtx { s.etx with current := none, inFlight := false }).topBody = g.body.length :=
    State.topBody_eq hs hg
  rw [State.endUnit]
  dsimp only
  rw [hb]
  simp only [State.withEtx_etx, State.withEtx_withEtx, hs, changeTop]
  rfl

/-- R117, R118, R120: the top entry popped. -/
theorem State.popTop_eq {top : StackEntry} {rest : List StackEntry} (release : Bool) (hs : s.etx.stack = top :: rest) :
    s.popTop release =
      (let t := s.withEtx
        { s.etx with stack := rest, unwinding := s.etx.unwinding && decide (rest ≠ []) }
       if release then t.removeHead top.source else t) := by
  have hne : (rest != []) = decide (rest ≠ []) := by cases rest <;> rfl
  rw [State.popTop, hs]
  dsimp only
  rw [hne]

theorem State.presentRequestAgain_held (h : s.holdsRequest) : s.presentRequestAgain = s.presentHeld := by
  obtain ⟨held, hh, hk⟩ := h
  refine if_pos ?_
  rw [Option.mem_def.1 hh]
  simpa [kindRequest] using hk

theorem State.presentRequestAgain_none (h : ¬s.holdsRequest) : s.presentRequestAgain = s := by
  refine if_neg fun e => h ?_
  cases hh : s.lrx.hold with
  | none => rw [hh] at e; simp at e
  | some held => rw [hh] at e; exact ⟨held, hh, by simpa [kindRequest] using e⟩

/-- Settles O38. -/
theorem ownSymbolSent : Obligations.OwnSymbolSent := by
  intro s what k sym hc hown hsym hopen
  have he : exec .symbolSent s = .next s.symbolSent := rfl
  rw [he, State.symbolSent_own hc hown hsym hopen]
  refine ⟨fun hmore => ?_, fun hlast => ?_⟩
  · rw [if_neg (Nat.ne_of_lt hmore)]
    refine congrArg Host.Outcome.next ?_
    unfold State.sentOwn stackAfter
    cases what <;> rfl
  rw [if_pos hlast]
  refine ⟨fun syms hw => ?_, fun top rest g hs hg => ⟨fun syms hw => ?_, fun n syms hw hk => ?_⟩, ?_⟩
  · subst hw
    rfl
  · subst hw
    rw [State.endUnit_segOpen (s := s.sentOwn (.segOpen syms) k sym) syms hs hg]
    rfl
  · subst hw
    have hstack : stackAfter (.chunk n syms) k s.etx.stack = { top with sent := top.sent + 1 } :: rest := by
      rw [hs]
      exact congrArg (fun e => e :: rest) (if_pos hk)
    rw [State.endUnit_chunk (s := s.sentOwn (.chunk n syms) k sym) n syms hstack hg]
    rfl
  · intro top rest hs popped
    have pops (release : Bool) (w : Sending) (hw : stackAfter w k s.etx.stack = s.etx.stack) :
        ((s.sentOwn w k sym).withEtx { (s.sentOwn w k sym).etx with current := none, inFlight := false }).popTop release =
          if release then popped.removeHead top.source else popped := by
      rw [State.popTop_eq release (hw.trans hs)]
      rfl
    refine ⟨fun syms hw => ?_, fun syms hw => ?_, fun syms hw => ?_⟩
    · subst hw
      exact congrArg Host.Outcome.next (pops false (.abandoned syms) rfl)
    · subst hw
      exact congrArg Host.Outcome.next (pops false (.segClose false syms) rfl)
    · subst hw
      have hend : (s.sentOwn (.segClose true syms) k sym).endUnit (.segClose true syms) = popped.removeHead top.source :=
        pops true (.segClose true syms) rfl
      rw [hend]
      refine ⟨fun n hsrc => ?_, fun hsrc => ?_, fun cause tag hsrc => ?_⟩
      · rw [hsrc]
        rfl
      · rw [hsrc]
        exact ⟨fun hno => congrArg Host.Outcome.next (State.presentRequestAgain_none hno),
          fun hheld => congrArg Host.Outcome.next (State.presentRequestAgain_held hheld)⟩
      · rw [hsrc]
        rfl

/-! ## The rest of a unit (R120, R127) -/

/-- ETX stands at a unit boundary, having sent the symbols `d` so far. -/
def State.sentUpTo (d : List Symbol) (s : State) : Prop := s.etx.current = none ∧ s.dtx = d

theorem sentUpTo_of_eq {d : List Symbol} {t : State} (h : s.sentUpTo d) (hc : t.etx.current = s.etx.current)
    (hd : t.dtx = s.dtx) : t.sentUpTo d := ⟨hc.trans h.1, hd.trans h.2⟩

theorem sentUpTo_lane {d : List Symbol} {t : State} {n : Fin 4} (h : s.sentUpTo d) (f : LaneFrame n s t) :
    t.sentUpTo d := sentUpTo_of_eq h (congrArg Etx.current f.etx) f.dtx

theorem sentUpTo_transit (d : List Symbol) : TransitKept (State.sentUpTo d) where
  append _ _ _ h := h
  mark _ h := h
  overrun _ _ h := h
  cut _ h := ⟨rfl, h.2⟩

theorem sentUpTo_lanes (d : List Symbol) : LaneKept (State.sentUpTo d) where
  quiet _ _ _ _ h := h
  endLine n s h := sentUpTo_lane h (.endLineOf n s)
  closeOpened _ _ _ h := h
  closeDiscard _ _ _ h := h
  abortItem _ _ _ h := h
  queueFinal n s _ h := sentUpTo_lane h (.endClosing n s)
  checkOpen n syms s _ h := sentUpTo_lane h (.checkOpen n s syms)

/-- What LRX does in an event leaves ETX at its boundary and sends nothing. -/
theorem sentUpTo_link (d : List Symbol) : LinkKept (State.sentUpTo d) (State.sentUpTo d) where
  lanes := sentUpTo_lanes d
  transit := sentUpTo_transit d
  requests :=
    { begins := fun _ _ _ h => h
      lrx := fun _ _ h => h
      transit := sentUpTo_transit d
      lanes := sentUpTo_lanes d
      events := fun _ h => h
      profile := fun _ _ _ _ h => h
      tone := fun _ _ _ h => h
      timebase := fun _ _ _ _ _ _ h => h
      reload := fun _ _ h => h
      restart := fun _ _ h => ⟨by simp [State.restart, etxRestart, h.1, settleCurrent], h.2⟩
      answer := fun _ _ _ _ _ h => h }
  lrx _ _ h := h
  stray _ h := h
  tagParity _ h := h
  extraData _ h := h
  rxOverrun _ h := h
  takeRequest _ _ _ _ h := h
  requestData _ s h := by
    unfold State.requestData
    split <;> exact h

theorem sentUpTo_removeHead {d : List Symbol} (src : Source) (h : s.sentUpTo d) : (s.removeHead src).sentUpTo d := by
  have K := (sentUpTo_link d).kept
  cases src with
  | lane n =>
    change (State.retestClosing n _).sentUpTo d
    unfold State.retestClosing
    split
    · exact K.presentLaneAgain n ((sentUpTo_lanes d).queueFinal n _ ‹_› h)
    · exact h
  | reply => exact K.presentRequestAgain h
  | started cause tag => exact h

/-- R120: the end of an own unit leaves a unit boundary, and sends nothing more. -/
theorem State.endUnit_sentUpTo (what : Sending) : (s.endUnit what).sentUpTo s.dtx := by
  have pops (release : Bool) (t : State) (h : t.sentUpTo s.dtx) : (t.popTop release).sentUpTo s.dtx := by
    unfold State.popTop
    split
    · exact h
    · split
      · exact sentUpTo_removeHead _ h
      · exact h
  unfold State.endUnit
  cases what with
  | segClose release syms => exact pops release _ ⟨rfl, rfl⟩
  | abandoned syms => exact pops false _ ⟨rfl, rfl⟩
  | _ => exact ⟨rfl, rfl⟩

/-- R120: the symbols of an own unit that are left, sent one by one. -/
theorem State.sendSymbols_own {what : Sending} (hown : ∀ len, what ≠ .transit len) :
    ∀ (j k : Nat) (s : State), s.dstop = false → s.etx.current = some ⟨what, k⟩ → k + j = (ownSymbols what).length → 0 < j →
      (s.sendSymbols j).sentUpTo (((ownSymbols what).drop k).reverse ++ s.dtx) := by
  intro j
  induction j with
  | zero => intro k s _ _ _ h0; omega
  | succ j ih =>
    intro k s hd hc hlen _
    have hk : k < (ownSymbols what).length := by omega
    have hsym : (ownSymbols what)[k]? = some (ownSymbols what)[k] := List.getElem?_eq_getElem hk
    have hdrop : (ownSymbols what).drop k = (ownSymbols what)[k] :: (ownSymbols what).drop (k + 1) :=
      List.drop_eq_getElem_cons hk
    rw [State.sendSymbols, State.symbolSent_own hc hown hsym (.inl hd), hdrop, List.reverse_cons, List.append_assoc]
    by_cases hj : j = 0
    · subst hj
      have hlast : (ownSymbols what).drop (k + 1) = [] := List.drop_of_length_le (by omega)
      rw [if_pos (by omega), hlast]
      exact State.endUnit_sentUpTo what
    · rw [if_neg (by omega)]
      exact ih (k + 1) _ hd rfl (by omega) (by omega)

/-- SYMBOL_SENT so many times always has a next state. -/
theorem sendsSymbols_eq (j : Nat) (s : State) : sendsSymbols j s = some (s.sendSymbols j) := by
  induction j generalizing s with
  | zero => rfl
  | succ j ih => exact ih s.symbolSent

theorem State.symbolsLeft_own {what : Sending} {k : Nat} (hc : s.etx.current = some ⟨what, k⟩)
    (hown : ∀ len, what ≠ .transit len) : s.symbolsLeft = some ((ownSymbols what).length - k) := by
  rw [State.symbolsLeft, hc]
  cases what with
  | transit len => exact absurd rfl (hown len)
  | _ => rfl

theorem State.unitEnd_eq {j : Nat} (h : s.symbolsLeft = some j) :
    s.unitEnd = if s.dstop = false ∨ (s.etx.inFlight = true ∧ j ≤ 1) then s.sendSymbols j else s := by
  rw [State.unitEnd, h]
  refine if_congr ?_ rfl rfl
  simp

/-- R144: the symbols up to the end of a transit unit, where its last one, or an end mark, has arrived. -/
theorem transitLeft_arrived (last : TransitSymbol) (rest : List TransitSymbol) :
    ∀ (sent : List TransitSymbol) (need : Nat), (∀ y ∈ sent, y.endMark = false) → sent.length + 1 ≤ need →
      (last.endMark = true ∨ sent.length + 1 = need) →
      transitLeft need (sent ++ last :: rest) = some (sent.length + 1) := by
  intro sent
  induction sent with
  | nil =>
    intro need _ hle hend
    obtain ⟨m, rfl⟩ : ∃ m, need = m + 1 := ⟨need - 1, by simp at hle; omega⟩
    rcases hend with h | h
    · exact if_pos h
    · obtain rfl : m = 0 := by simpa using h.symm
      by_cases hm : last.endMark = true
      · exact if_pos hm
      · exact (if_neg hm).trans rfl
  | cons y sent ih =>
    intro need hmarks hle hend
    obtain ⟨m, rfl⟩ : ∃ m, need = m + 1 := ⟨need - 1, by simp at hle; omega⟩
    have hy : ¬y.endMark = true := by simp [hmarks y (by simp)]
    have hrest := ih m (fun z hz => hmarks z (by simp [hz])) (by simp at hle; omega)
      (hend.imp_right fun e => by simp at e; omega)
    rw [List.cons_append, transitLeft, if_neg hy, hrest]
    rfl

/-- R144: while neither has arrived, the unit waits. -/
theorem transitLeft_waits : ∀ (fifo : List TransitSymbol) (need : Nat), (∀ y ∈ fifo, y.endMark = false) →
    fifo.length < need → transitLeft need fifo = none := by
  intro fifo
  induction fifo with
  | nil =>
    intro need _ hlt
    obtain ⟨m, rfl⟩ : ∃ m, need = m + 1 := ⟨need - 1, by simp at hlt; omega⟩
    rfl
  | cons y fifo ih =>
    intro need hmarks hlt
    obtain ⟨m, rfl⟩ : ∃ m, need = m + 1 := ⟨need - 1, by simp at hlt; omega⟩
    have hy : ¬y.endMark = true := by simp [hmarks y (by simp)]
    rw [transitLeft, if_neg hy, ih m (fun z hz => hmarks z (by simp [hz])) (by simpa using hlt)]
    rfl

theorem State.symbolsLeft_transit {len k : Nat} (hc : s.etx.current = some ⟨.transit len, k⟩) :
    s.symbolsLeft = transitLeft (len + 3 - k) s.transit := by
  rw [State.symbolsLeft, hc]

/-- R125, R144: the symbols of a transit unit up to its end, sent one by one. -/
theorem State.sendSymbols_transit {len : Nat} (last : TransitSymbol) (rest : List TransitSymbol) :
    ∀ (sent : List TransitSymbol) (k : Nat) (s : State), s.dstop = false → s.etx.current = some ⟨.transit len, k⟩ →
      s.transit = sent ++ last :: rest → (∀ y ∈ sent, y.endMark = false) → k + sent.length + 1 ≤ len + 3 →
      (last.endMark = true ∨ k + sent.length + 1 = len + 3) →
      s.sendSymbols (sent.length + 1) =
        ((s.withTransit rest).withDtx (last.sym :: (sent.map TransitSymbol.sym).reverse ++ s.dtx)).withEtx
          { s.etx with current := none, inFlight := false } := by
  intro sent
  induction sent with
  | nil =>
    intro k s hd hc ht _ hle hend
    have hopen : s.symbolSent = s.sendNext := if_pos (State.portOpen_iff.2 (.inl hd))
    have hcond : k + 1 = len + 3 ∨ last.endMark = true := hend.symm
    rw [List.length_nil, State.sendSymbols, hopen, State.sendNext_transit hc ht, if_pos hcond]
    rfl
  | cons y sent ih =>
    intro k s hd hc ht hmarks hle hend
    have hopen : s.symbolSent = s.sendNext := if_pos (State.portOpen_iff.2 (.inl hd))
    have hcond : ¬(k + 1 = len + 3 ∨ y.endMark = true) := by
      rw [List.length_cons] at hle
      simp only [hmarks y (by simp), Bool.false_eq_true, or_false]
      omega
    rw [List.length_cons, State.sendSymbols, hopen, State.sendNext_transit hc ht, if_neg hcond]
    refine (ih (k + 1) _ ?_ rfl rfl ?_ ?_ ?_).trans ?_
    · exact hd
    · exact fun z hz => hmarks z (by simp [hz])
    · rw [List.length_cons] at hle; omega
    · exact hend.imp_right fun e => by rw [List.length_cons] at e; omega
    · simp [State.withTransit, State.withDtx, State.withEtx]

/-- Settles O40. -/
theorem unitEndSendsTheRest : Obligations.UnitEndSendsTheRest := by
  intro s
  refine ⟨fun hc => ?_, fun hd what k hc hown hk => ?_, fun hd hf what k hc hown => ⟨fun hlast => ?_, fun hmore => ?_⟩,
    fun len k hc hk => ⟨fun hmarks hlt => ?_, fun sent last rest ht hmarks hle hend => ?_⟩⟩
  · have hleft : s.symbolsLeft = none := by rw [State.symbolsLeft, hc]
    exact congrArg Host.Outcome.next (by rw [State.unitEnd, hleft])
  · have hleft := State.symbolsLeft_own hc hown
    have hall := State.sendSymbols_own hown ((ownSymbols what).length - k) k s hd hc (by omega) (by omega)
    refine ⟨s.sendSymbols ((ownSymbols what).length - k), sendsSymbols_eq _ _, ?_, hall.1, hall.2⟩
    exact congrArg Host.Outcome.next ((State.unitEnd_eq hleft).trans (if_pos (.inl hd)))
  · have hleft := State.symbolsLeft_own hc hown
    have hone : (ownSymbols what).length - k = 1 := by omega
    rw [hone] at hleft
    exact congrArg Host.Outcome.next ((State.unitEnd_eq hleft).trans (if_pos (.inr ⟨hf, le_refl 1⟩)))
  · have hleft := State.symbolsLeft_own hc hown
    refine congrArg Host.Outcome.next ((State.unitEnd_eq hleft).trans (if_neg ?_))
    rintro (e | ⟨-, e⟩)
    · simp [hd] at e
    · omega
  · have hleft : s.symbolsLeft = none :=
      (State.symbolsLeft_transit hc).trans (transitLeft_waits _ _ hmarks hlt)
    exact congrArg Host.Outcome.next (by rw [State.unitEnd, hleft])
  · have hleft : s.symbolsLeft = some (sent.length + 1) := by
      rw [State.symbolsLeft_transit hc, ht]
      exact transitLeft_arrived last rest sent _ hmarks (by omega) (hend.imp_right fun e => by omega)
    refine ⟨fun hd => ?_, fun hd hf => ⟨fun hs => ?_, fun hs => ?_⟩⟩
    · refine congrArg Host.Outcome.next ((State.unitEnd_eq hleft).trans ((if_pos (.inl hd)).trans ?_))
      exact State.sendSymbols_transit last rest sent k s hd hc ht hmarks hle hend
    · subst hs
      exact congrArg Host.Outcome.next ((State.unitEnd_eq hleft).trans (if_pos (.inr ⟨hf, le_refl 1⟩)))
    · refine congrArg Host.Outcome.next ((State.unitEnd_eq hleft).trans (if_neg ?_))
      have hpos := List.length_pos_iff.2 hs
      rintro (e | ⟨-, e⟩)
      · simp [hd] at e
      · omega

end Sys2Proof.Machine
end

section
/-! SUPPORT. Section 11.2: how a boot load ends (O43, O44). -/

namespace Sys2Proof.Machine

/-! ## The end of a boot load (R157, R160, R164) -/

theorem State.presentHeld_none {s : State} (free : s.lrx.hold = none) : s.presentHeld = s := by
  unfold State.presentHeld
  rw [free]

/-- R160: the state in which the start-up sequence has ended, before LRX takes its backlog. -/
def State.startUpEnded (s : State) : State :=
  { s with startUp := false, boot := {}, etx := { s.etx with started := some (s.req.lastReset, 0) } }

/-- R157: the state in which a RELOAD BOOT with the given tag has ended, its reply queued, before a held unit is
presented. -/
def State.reloadEnded (tag : Byte) (code : ReplyCode) (s : State) : State :=
  { s with
    boot := {}
    replies := s.replies ++ [⟨.reply tag 9 code s.partAddress, []⟩]
    req := { s.req with bootRunning := none, owed := s.req.owed - 1 } }

theorem State.endBootLoad_startUp {s : State} (code : ReplyCode) (h : s.boot.purpose = some .startUp) :
    s.endBootLoad code = s.startUpEnded.drain := by
  unfold State.endBootLoad
  rw [h]
  rfl

theorem State.endBootLoad_reload {s : State} {tag : Byte} (code : ReplyCode) (h : s.boot.purpose = some .reload)
    (running : s.req.bootRunning = some tag) : s.endBootLoad code = (s.reloadEnded tag code).presentHeld := by
  unfold State.endBootLoad
  rw [h]
  change (s.withBoot {}).endReload code = _
  unfold State.endReload
  rw [show (s.withBoot {}).req.bootRunning = some tag from running]
  rfl

/-! ## A memory that does not answer (R161) -/

theorem State.bootNoAnswer_ends {s : State} (running : s.boot.phase ≠ .idle) (begins : s.boot.position = 0) :
    s.bootNoAnswer = (s.putBus [.stop]).endBootLoad .noMemory :=
  if_neg (not_or.mpr ⟨running, not_not.mpr begins⟩)

/-- Settles O43. -/
theorem silentBootMemoryEndsLoad : Obligations.SilentBootMemoryEndsLoad := by
  intro s
  refine ⟨fun h => congrArg Host.Outcome.next (if_pos h), fun running begins => ⟨fun startUp => ?_, ?_⟩⟩
  · refine congrArg Host.Outcome.next ?_
    rw [State.bootNoAnswer_ends running begins, State.endBootLoad_startUp (s := s.putBus [.stop]) _ startUp]
    rfl
  · intro tag reload pending t
    have ends : s.bootNoAnswer = t.presentHeld := by
      rw [State.bootNoAnswer_ends running begins, State.endBootLoad_reload (s := s.putBus [.stop]) _ reload pending]
      rfl
    exact ⟨fun free => congrArg Host.Outcome.next (ends.trans (State.presentHeld_none free)),
      fun _ => congrArg Host.Outcome.next ends⟩

/-! ## An image byte that fails its test (R162) -/

theorem getD_append_last (before : List Byte) (v : Byte) {k : Nat} (size : before.length = k) :
    (before ++ [v]).getD k 0 = v := by
  subst size
  simp

theorem fieldAt_last_two (before : List Byte) (v : Byte) {k : Nat} (size : before.length = k + 1) :
    fieldAt (before ++ [v]) k 2 = 256 * (before.getD k 0).toNat + v.toNat := by
  have spelled : (before ++ [v]).drop k = [before.getD k 0, v] := by
    rw [List.drop_append_of_le_length (by omega), List.drop_eq_getElem_cons (by omega), List.drop_of_length_le (by omega),
      List.getD_eq_getElem?_getD, List.getElem?_eq_getElem (by omega)]
    rfl
  rw [fieldAt, spelled]
  simp only [beValue, List.take, List.foldl]
  omega

/-- R162 test 4: a byte that fails its test in the record fails it in the profile entry. -/
theorem profileByteOk_of_fails {before : List Byte} {v : Byte} (fails : recordByteFails before v) :
    profileByteOk (before.length + 1) v (before ++ [v]) = false := by
  rw [profileByteOk, if_neg (Nat.succ_ne_zero _), Nat.add_sub_cancel, Bool.and_eq_false_iff]
  unfold recordByteFails at fails
  obtain ⟨off, range⟩ | ⟨off, range⟩ | ⟨off, range⟩ | ⟨off, range⟩ | ⟨off, range⟩ | ⟨off, range⟩ | ⟨off, range⟩ |
    ⟨off, inconsistent⟩ := fails
  case inr.inr.inr.inr.inr.inr.inr =>
    refine .inr ?_
    rw [off, Bool.or_eq_false_iff]
    refine ⟨rfl, ?_⟩
    rw [← Bool.not_eq_true]
    exact fun ok => inconsistent (by
      simpa only [recordConsistent, Bool.and_eq_true, decide_eq_true_eq, and_assoc] using ok)
  case inr.inr.inr.inr.inr.inl =>
    refine .inl ?_
    rw [off]
    unfold recordFieldOk
    dsimp only
    rw [getD_append_last before v off]
    simpa using range
  all_goals
    refine .inl ?_
    simp only [List.mem_cons, List.not_mem_nil, or_false] at off
  case inr.inr.inr.inr.inr.inr.inl =>
    rcases off with off | off <;> rw [off] at range ⊢ <;> unfold recordFieldOk <;> dsimp only at range ⊢ <;>
      rw [fieldAt_last_two before v off] <;> exact decide_eq_false range.not_ge
  case inl =>
    rcases off with off | off | off | off <;> rw [off] <;> unfold recordFieldOk <;> dsimp only <;>
      rw [getD_append_last before v off] <;> exact decide_eq_false (by omega)
  case inr.inl =>
    have out : spanOk v = false := by
      rcases range with rfl | range
      · rfl
      · rw [spanOk, Bool.and_eq_false_iff, decide_eq_false_iff_not, decide_eq_false_iff_not]
        exact .inr (by omega)
    rcases off with off | off <;> rw [off] <;> unfold recordFieldOk <;> dsimp only <;>
      rw [getD_append_last before v off] <;> exact out
  all_goals
    rcases off with off | off <;> rw [off] <;> unfold recordFieldOk <;> dsimp only <;>
      rw [getD_append_last before v off] <;> exact decide_eq_false (by omega)

/-- R162: an image byte that fails a test ends the pass. -/
theorem bootByte_of_fails {b : BootLoader} {v : Byte} (fails : imageByteFails b v) : bootByte b v = .bad := by
  unfold imageByteFails at fails
  have entry : toneStart b ≤ sumStart b := Nat.le_add_right ..
  have begins : 7 ≤ toneStart b := Nat.le_add_right ..
  have inHeader : ∀ k, k < 7 → b.position = k → bootByte b v = bootHeaderByte b v := fun k hk at_ => if_pos (at_ ▸ hk)
  have inProfile : 7 ≤ b.position → b.position < toneStart b → bootByte b v = bootProfileByte b v := fun lo hi => by
    rw [bootByte, if_neg (by omega), if_pos hi]
  obtain ⟨at_, wrong⟩ | ⟨at_, wrong⟩ | ⟨at_, wrong⟩ | ⟨at_, wrong⟩ | ⟨at_, wrong⟩ | ⟨at_, window, rfl⟩ |
    ⟨lo, hi, window, wrong⟩ | ⟨lo, hi, index, before, window, wrong⟩ | ⟨lo, hi, window, wrong⟩ |
    ⟨at_, hi, window, wrong⟩ := fails
  · rw [inHeader 0 (by decide) at_, bootHeaderByte, at_]
    exact if_neg wrong
  · rw [inHeader 1 (by decide) at_, bootHeaderByte, at_]
    exact if_neg wrong
  · rw [inHeader 2 (by decide) at_, bootHeaderByte, at_]
    exact if_neg (by omega)
  · rw [inHeader 3 (by decide) at_, bootHeaderByte, at_]
    exact if_neg (by omega)
  · rw [inHeader 4 (by decide) at_, bootHeaderByte, at_]
    exact if_neg (by omega)
  · rw [inHeader 6 (by decide) at_, bootHeaderByte, at_]
    refine if_neg ?_
    rw [window]
    decide
  · rw [inProfile lo hi, bootProfileByte, window]
    refine if_neg ?_
    simp only [profileByteOk, List.length_nil, if_pos, decide_eq_true_eq]
    omega
  · rw [inProfile lo hi, bootProfileByte, window]
    refine if_neg ?_
    exact ne_true_of_eq_false (profileByteOk_of_fails wrong)
  · rw [bootByte, if_neg (by omega), if_neg (show ¬ b.position < toneStart b from lo.not_gt),
      if_pos (show b.position < sumStart b from hi), bootToneByte, window]
    exact if_pos ⟨rfl, wrong⟩
  · have past : b.position = sumStart b + 1 := at_
    rw [bootByte, if_neg (by omega), if_neg (by omega), if_neg (by omega), bootSumByte, if_neg (by omega), window]
    refine if_neg ?_
    simp only [beValue, List.cons_append, List.nil_append, List.foldl]
    omega

theorem State.bootByteRead_bad {s : State} {v : Byte} (running : s.boot.phase ≠ .idle) (bad : bootByte s.boot v = .bad) :
    s.bootByteRead v = (s.putBus [.noAck, .stop]).endBootLoad .badImage := by
  rw [State.bootByteRead, if_neg running]
  dsimp only
  rw [show bootByte (s.putBus _).boot v = .bad from bad, bad]
  rfl

/-- Settles O44. -/
theorem badImageByteEndsLoad : Obligations.BadImageByteEndsLoad := by
  intro s v
  refine ⟨fun h => congrArg Host.Outcome.next (if_pos h), fun running fails => ⟨fun startUp => ?_, ?_⟩⟩
  · refine congrArg Host.Outcome.next ?_
    rw [State.bootByteRead_bad running (bootByte_of_fails fails),
      State.endBootLoad_startUp (s := s.putBus [.noAck, .stop]) _ startUp]
    rfl
  · intro tag reload pending t
    have ends : s.bootByteRead v = t.presentHeld := by
      rw [State.bootByteRead_bad running (bootByte_of_fails fails),
        State.endBootLoad_reload (s := s.putBus [.noAck, .stop]) _ reload pending]
      rfl
    exact ⟨fun free => congrArg Host.Outcome.next (ends.trans (State.presentHeld_none free)),
      fun _ => congrArg Host.Outcome.next ends⟩

end Sys2Proof.Machine
end

section
/-! SUPPORT. R36, R161 to R164: a good boot image, read byte by byte in two passes (O45). -/

namespace Sys2Proof.Machine

/-! ## One byte of a pass (R161 to R163) -/

theorem State.bootByteRead_more {s : State} {v : Byte} {b : BootLoader} (running : s.boot.phase ≠ .idle)
    (more : bootByte s.boot v = .more b) : s.bootByteRead v = (s.putBus [.ack]).withBoot (keepStaging s.boot b) := by
  rw [State.bootByteRead, if_neg running]
  dsimp only
  rw [show bootByte (s.putBus _).boot v = .more b from more, more]
  rfl

/-- R162, R163: the check pass ends, and the apply pass begins with its own addressing. -/
theorem State.bootByteRead_checked {s : State} {v : Byte} {b : BootLoader} (check : s.boot.phase = .check)
    (passed : bootByte s.boot v = .passed b) :
    s.bootByteRead v = (s.putBus ([.noAck, .stop] ++ busAddressing)).withBoot (applyPass s.boot) := by
  rw [State.bootByteRead, if_neg (by rw [check]; decide)]
  dsimp only
  rw [show bootByte (s.putBus _).boot v = .passed b from passed, passed]
  dsimp only
  rw [if_pos (show (s.putBus _).boot.phase = .check from check), busAfterByte, if_pos check]
  rfl

/-- R163: the apply pass ends, and the image is written. -/
theorem State.bootByteRead_applied {s : State} {v : Byte} {b : BootLoader} (apply : s.boot.phase = .apply)
    (passed : bootByte s.boot v = .passed b) :
    s.bootByteRead v = ((s.putBus [.noAck, .stop]).applyImage b.staging).endBootLoad .done := by
  have checks : ¬ s.boot.phase = .check := by rw [apply]; decide
  rw [State.bootByteRead, if_neg (by rw [apply]; decide)]
  dsimp only
  rw [show bootByte (s.putBus _).boot v = .passed b from passed, passed]
  dsimp only
  rw [if_neg (show ¬ (s.putBus _).boot.phase = .check from checks), busAfterByte, if_neg checks]

theorem keepStaging_of_staging {old new : BootLoader} (same : new.staging = old.staging) : keepStaging old new = new := by
  unfold keepStaging
  split
  · rfl
  · rw [← same]

theorem toneStart_le_sumStart (b : BootLoader) : 7 ≤ toneStart b ∧ toneStart b ≤ sumStart b :=
  ⟨Nat.le_add_right .., Nat.le_add_right ..⟩

theorem bootByte_tone {b : BootLoader} (v : Byte) (lo : toneStart b ≤ b.position) (hi : b.position < sumStart b) :
    bootByte b v = bootToneByte b v := by
  have begins := toneStart_le_sumStart b
  rw [bootByte, if_neg (by omega), if_neg (by omega), if_pos hi]

theorem bootByte_profile {b : BootLoader} (v : Byte) (lo : 7 ≤ b.position) (hi : b.position < toneStart b) :
    bootByte b v = bootProfileByte b v := by
  rw [bootByte, if_neg (by omega), if_pos hi]

theorem bootByte_sum {b : BootLoader} (v : Byte) (lo : sumStart b ≤ b.position) : bootByte b v = bootSumByte b v := by
  have begins := toneStart_le_sumStart b
  rw [bootByte, if_neg (by omega), if_neg (by omega), if_neg (by omega)]

/-! ## Byte after byte -/

theorem readsBytes_eq (bytes : List Byte) (s : State) :
    readsBytes bytes s = some (bytes.foldl (fun s v => s.bootByteRead v) s) := by
  induction bytes generalizing s with
  | nil => rfl
  | cons v rest ih => exact ih (s.bootByteRead v)

theorem readsBytes_append {first : List Byte} {s t : State} (read : readsBytes first s = some t) (second : List Byte) :
    readsBytes (first ++ second) s = readsBytes second t := by
  rw [readsBytes_eq] at read ⊢
  rw [List.foldl_append, Option.some.inj read, readsBytes_eq]

/-- The pass `b` takes the bytes, each by its test, and is then `b'`. -/
def Takes : BootLoader → List Byte → BootLoader → Prop
  | b, [], b' => b' = b
  | b, v :: rest, b' => ∃ next, bootByte b v = .more next ∧ Takes (keepStaging b next) rest b'

theorem Takes.append {b b' b'' : BootLoader} {first second : List Byte} (h : Takes b first b') (h' : Takes b' second b'') :
    Takes b (first ++ second) b'' := by
  induction first generalizing b with
  | nil => exact (show b' = b from h) ▸ h'
  | cons v rest ih =>
    obtain ⟨next, more, taken⟩ := h
    exact ⟨next, more, ih taken⟩

theorem Takes.single {b next b' : BootLoader} {v : Byte} (more : bootByte b v = .more next) (kept : keepStaging b next = b') :
    Takes b [v] b' :=
  ⟨next, more, kept.symm⟩

/-- R161: bytes that pass their tests are acknowledged. -/
theorem Takes.readsBytes {s : State} {bytes : List Byte} {b : BootLoader} (running : s.boot.phase ≠ .idle)
    (h : Takes s.boot bytes b) :
    readsBytes bytes s = some { s with boot := b, bus := List.replicate bytes.length .ack ++ s.bus } := by
  induction bytes generalizing s with
  | nil => rw [show b = s.boot from h]; rfl
  | cons v rest ih =>
    obtain ⟨next, more, taken⟩ := h
    have phase : (keepStaging s.boot next).phase = s.boot.phase := by
      rw [← bootByte_phase more]
      unfold keepStaging
      split <;> rfl
    change Sys2Proof.Machine.readsBytes rest (s.bootByteRead v) = _
    rw [State.bootByteRead_more running more]
    refine (ih (s := (s.putBus [.ack]).withBoot (keepStaging s.boot next)) (by exact phase ▸ running) taken).trans ?_
    rw [List.length_cons, List.replicate_succ', List.append_assoc]
    rfl

/-! ## The pass between two bytes -/

/-- A pass that has read the bytes `read`, with its counts, the window, and in the apply pass the staging buffer `g`. -/
def midPass (phase : BootPhase) (purpose : Option BootPurpose) (profileCount toneCount : Nat) (read window : List Byte)
    (g : Staging) : BootLoader where
  phase        := phase
  purpose      := purpose
  position     := read.length
  profileCount := profileCount
  toneCount    := toneCount
  sum          := BitVec.ofNat 16 (read.map BitVec.toNat).sum
  window       := window
  staging      := if phase = .apply then g else {}

section
variable {phase : BootPhase} {purpose : Option BootPurpose} {pc tc : Nat}

theorem bootAdvance_midPass (read window : List Byte) (g : Staging) (v : Byte) :
    bootAdvance (midPass phase purpose pc tc read window g) v = midPass phase purpose pc tc (read ++ [v]) window g := by
  have sum : BitVec.ofNat 16 (read.map BitVec.toNat).sum + v.setWidth 16 =
      BitVec.ofNat 16 ((read ++ [v]).map BitVec.toNat).sum := by
    rw [List.map_append, List.sum_append, BitVec.ofNat_add]
    rw [List.map_singleton, List.sum_singleton, BitVec.ofNat_toNat]
  simp only [bootAdvance, midPass, sum, List.length_append, List.length_cons, List.length_nil]

/-- R162: what a byte stages stays in the apply pass, and the staging buffer stays empty in the check pass. -/
theorem keepStaging_midPass (stage : Staging → Staging) (read read' window window' : List Byte) (g : Staging)
    (pc' tc' : Nat) :
    keepStaging (midPass phase purpose pc tc read window g)
      { midPass phase purpose pc' tc' read' window' g with
        staging := stage (midPass phase purpose pc tc read window g).staging } =
    midPass phase purpose pc' tc' read' window' (stage g) := by
  unfold keepStaging midPass
  dsimp only
  split <;> rfl

theorem keepStaging_midPass_self (read read' window window' : List Byte) (g : Staging) (pc' tc' : Nat) :
    keepStaging (midPass phase purpose pc tc read window g) (midPass phase purpose pc' tc' read' window' g) =
      midPass phase purpose pc' tc' read' window' g :=
  keepStaging_of_staging rfl

/-- The bytes of an entry that pass their tests wait in the window. -/
theorem takes_window {read entry : List Byte} {g : Staging} {n : Nat} (size : n ≤ entry.length)
    (steps : ∀ off < n,
      bootByte (midPass phase purpose pc tc (read ++ entry.take off) (entry.take off) g) (entry.getD off 0) =
      .more (midPass phase purpose pc tc (read ++ entry.take (off + 1)) (entry.take (off + 1)) g)) :
    Takes (midPass phase purpose pc tc read [] g) (entry.take n)
      (midPass phase purpose pc tc (read ++ entry.take n) (entry.take n) g) := by
  induction n with
  | zero => rw [List.take_zero, List.append_nil]; rfl
  | succ n ih =>
    have before := ih (by omega) fun off h => steps off (by omega)
    have last : Takes _ [entry.getD n 0] _ := .single (steps n (by omega)) (keepStaging_midPass_self ..)
    have taken := before.append last
    rwa [← take_succ_getD entry n (by omega)] at taken

/-- An entry whose last byte stages it. -/
theorem takes_entry {read entry : List Byte} {g : Staging} {n : Nat} (size : entry.length = n + 1)
    (stage : Staging → Staging)
    (waits : ∀ off < n, ∀ b, b = midPass phase purpose pc tc (read ++ entry.take off) (entry.take off) g →
      bootByte b (entry.getD off 0) = .more { bootAdvance b (entry.getD off 0) with window := entry.take (off + 1) })
    (ends : ∀ b, b = midPass phase purpose pc tc (read ++ entry.take n) (entry.take n) g →
      bootByte b (entry.getD n 0) =
        .more { bootAdvance b (entry.getD n 0) with window := [], staging := stage b.staging }) :
    Takes (midPass phase purpose pc tc read [] g) entry (midPass phase purpose pc tc (read ++ entry) [] (stage g)) := by
  have grows : ∀ off ≤ n, entry.take off ++ [entry.getD off 0] = entry.take (off + 1) :=
    fun off h => (take_succ_getD _ _ (by omega)).symm
  have all : entry.take (n + 1) = entry := List.take_of_length_le (by omega)
  have first : Takes (midPass phase purpose pc tc read [] g) (entry.take n) _ :=
    takes_window (by omega) fun off h => by
      rw [waits off h _ rfl, bootAdvance_midPass, ← grows off (by omega), ← List.append_assoc]
      rfl
  have last := ends _ rfl
  rw [bootAdvance_midPass, List.append_assoc, grows n le_rfl, all] at last
  have whole := first.append (.single last
    (keepStaging_midPass stage (read ++ entry.take n) (read ++ entry) (entry.take n) [] g pc tc))
  rwa [grows n le_rfl, all] at whole

/-! ## Profile entries (R162 test 4) -/

/-- The bytes of a profile entry. -/
def profileEntry (e : Fin 16 × Record) : List Byte := BitVec.ofNat 8 e.1.val :: recordBytes e.2

theorem profileEntry_length (e : Fin 16 × Record) : (profileEntry e).length = 37 := by
  simp [profileEntry, recordBytes, beBytes_length]

/-- R26 check 2: every byte of a record whose fields are in range passes its test. -/
theorem recordFieldOk_of_inRange {w : List Byte} (ok : recordInRange (recordOfBytes w) = true) (off : Nat) :
    recordFieldOk off w = true := by
  have word : ∀ i, (BitVec.ofNat 16 (fieldAt w i 2)).toNat = fieldAt w i 2 := fun i => by
    have := fieldAt_two_le w i
    simp only [BitVec.toNat_ofNat]
    omega
  simp only [recordInRange, recordOfBytes, word, Bool.and_eq_true, and_assoc] at ok
  obtain ⟨bEnable, sB, eB, vB, bandCode, mode, despeckle, gEnable, sG, eG, vG, depth, tone, dMin, dMax⟩ := ok
  unfold recordFieldOk
  dsimp only
  split
  case h_16 => rfl
  all_goals assumption

theorem profileByteOk_profileEntry {e : Fin 16 × Record} (ok : acceptable e.2) {off : Nat} (inside : off < 37) :
    profileByteOk off ((profileEntry e).getD off 0) (((profileEntry e).take (off + 1)).drop 1) = true := by
  obtain ⟨index, r⟩ := e
  rw [← recordOk_iff, recordOk, Bool.and_eq_true] at ok
  obtain ⟨inRange, consistent⟩ := ok
  rw [← recordOfBytes_recordBytes r] at inRange
  cases off with
  | zero =>
    simp only [profileByteOk, profileEntry, List.getD_cons_zero, if_pos, decide_eq_true_eq, BitVec.toNat_ofNat]
    omega
  | succ off =>
    rw [profileByteOk, if_neg (by omega), Nat.add_sub_cancel, Bool.and_eq_true, profileEntry, List.take_succ_cons,
      List.drop_one, List.tail_cons, recordFieldOk_take]
    refine ⟨recordFieldOk_of_inRange inRange off, ?_⟩
    by_cases last : off = 35
    · subst last
      rw [recordOfBytes_take, recordOfBytes_recordBytes, consistent]
      rfl
    · simp [last]

theorem bootProfileByte_waits {b : BootLoader} {v : Byte} {off : Nat} (window : b.window.length = off) (waits : off < 36)
    (passes : profileByteOk off v ((b.window ++ [v]).drop 1) = true) :
    bootProfileByte b v = .more { bootAdvance b v with window := b.window ++ [v] } := by
  subst window
  rw [bootProfileByte, if_pos passes, if_neg (by omega)]

theorem bootProfileByte_ends {b : BootLoader} {v : Byte} (window : b.window.length = 36)
    (passes : profileByteOk 36 v ((b.window ++ [v]).drop 1) = true) :
    bootProfileByte b v = .more
      { bootAdvance b v with
        window := []
        staging :=
          { b.staging with
            profiles := b.staging.profiles ++
              [(Fin.ofNat 16 ((b.window ++ [v]).getD 0 0).toNat, recordOfBytes ((b.window ++ [v]).drop 1))] } } := by
  rw [← window] at passes
  rw [bootProfileByte, if_pos passes, if_pos window]

theorem profileEntry_read (e : Fin 16 × Record) :
    (Fin.ofNat 16 ((profileEntry e).getD 0 0).toNat, recordOfBytes ((profileEntry e).drop 1)) = e := by
  obtain ⟨index, r⟩ := e
  refine Prod.ext (Fin.ext ?_) (recordOfBytes_recordBytes r)
  simp [profileEntry]

theorem takes_profileEntry {read : List Byte} {e : Fin 16 × Record} (ok : acceptable e.2) (lo : 7 ≤ read.length)
    (hi : read.length + 37 ≤ 7 + 37 * pc) (g : Staging) :
    Takes (midPass phase purpose pc tc read [] g) (profileEntry e)
      (midPass phase purpose pc tc (read ++ profileEntry e) [] { g with profiles := g.profiles ++ [e] }) := by
  have size := profileEntry_length e
  have staged := profileEntry_read e
  have passes := fun off h => profileByteOk_profileEntry (off := off) ok h
  generalize profileEntry e = entry at *
  have grows : ∀ off < 37, entry.take off ++ [entry.getD off 0] = entry.take (off + 1) :=
    fun off h => (take_succ_getD _ _ (by omega)).symm
  have window : ∀ off < 37, (entry.take off).length = off := fun off h => by
    rw [List.length_take]
    omega
  have inside : ∀ off < 37, ∀ b, b = midPass phase purpose pc tc (read ++ entry.take off) (entry.take off) g → ∀ v,
      bootByte b v = bootProfileByte b v := by
    rintro off h _ rfl v
    have position : (midPass phase purpose pc tc (read ++ entry.take off) (entry.take off) g).position =
      read.length + off := by rw [midPass, List.length_append, window off h]
    exact bootByte_profile v (by omega) (position ▸ (by change _ < 7 + 37 * pc; omega))
  refine takes_entry (n := 36) size (fun st => { st with profiles := st.profiles ++ [e] }) ?_ ?_
  · intro off h b at_
    have held : b.window = entry.take off := at_ ▸ rfl
    rw [inside off (by omega) b at_, bootProfileByte_waits (off := off) (by rw [held, window off (by omega)]) h, held,
      grows off (by omega)]
    rw [held, grows off (by omega)]
    exact passes off (by omega)
  · intro b at_
    have held : b.window = entry.take 36 := at_ ▸ rfl
    have whole : b.window ++ [entry.getD 36 0] = entry := by
      rw [held, grows 36 (by decide), List.take_of_length_le (by omega)]
    rw [inside 36 (by decide) b at_, bootProfileByte_ends (by rw [held, window 36 (by decide)]), whole, staged]
    rw [held, grows 36 (by decide)]
    exact passes 36 (by decide)

/-- Entries of one kind, one after another. -/
theorem takes_entries {α : Type} (enc : α → List Byte) (stage : Staging → α → Staging) {size lo hi : Nat}
    {entries : List α}
    (sizes : ∀ e, (enc e).length = size)
    (one : ∀ e ∈ entries, ∀ read g, lo ≤ read.length → read.length + size ≤ hi →
      Takes (midPass phase purpose pc tc read [] g) (enc e) (midPass phase purpose pc tc (read ++ enc e) [] (stage g e)))
    {read : List Byte} (g : Staging) (begins : lo ≤ read.length) (fits : read.length + size * entries.length ≤ hi) :
    Takes (midPass phase purpose pc tc read [] g) (entries.flatMap enc)
      (midPass phase purpose pc tc (read ++ entries.flatMap enc) [] (entries.foldl stage g)) := by
  induction entries generalizing read g with
  | nil =>
    rw [List.flatMap_nil, List.append_nil]
    rfl
  | cons e rest ih =>
    rw [List.length_cons, Nat.mul_succ] at fits
    have first := one e List.mem_cons_self read g begins (by omega)
    have others := ih (fun e' mem => one e' (List.mem_cons_of_mem _ mem)) (read := read ++ enc e) (stage g e)
      (by rw [List.length_append]; omega) (by rw [List.length_append, sizes]; omega)
    rw [List.append_assoc] at others
    exact first.append others

/-! ## Tone entries (R162 test 5) -/

/-- The bytes of a tone entry. -/
def toneEntry (e : Fin 4 × Vector Byte 256) : List Byte := BitVec.ofNat 8 e.1.val :: e.2.toList

theorem toneEntry_length (e : Fin 4 × Vector Byte 256) : (toneEntry e).length = 257 := by simp [toneEntry]

theorem bootToneByte_waits {b : BootLoader} {v : Byte} (index : b.window.length = 0 → v.toNat ≤ 3)
    (waits : b.window.length ≠ 256) :
    bootToneByte b v = .more { bootAdvance b v with window := b.window ++ [v] } := by
  rw [bootToneByte, if_neg (fun out => absurd (index out.1) (by omega)), if_neg waits]

theorem bootToneByte_ends {b : BootLoader} {v : Byte} (ends : b.window.length = 256) :
    bootToneByte b v = .more
      { bootAdvance b v with
        window := []
        staging :=
          { b.staging with
            tones := b.staging.tones ++
              [(Fin.ofNat 4 ((b.window ++ [v]).getD 0 0).toNat, (b.window ++ [v]).drop 1)] } } := by
  rw [bootToneByte, if_neg (by omega), if_pos ends]

theorem toneEntry_read (e : Fin 4 × Vector Byte 256) :
    (Fin.ofNat 4 ((toneEntry e).getD 0 0).toNat, (toneEntry e).drop 1) = (e.1, e.2.toList) := by
  obtain ⟨index, entries⟩ := e
  refine Prod.ext (Fin.ext ?_) rfl
  simp [toneEntry]

theorem takes_toneEntry {read : List Byte} (e : Fin 4 × Vector Byte 256) (lo : 7 + 37 * pc ≤ read.length)
    (hi : read.length + 257 ≤ 7 + 37 * pc + 257 * tc) (g : Staging) :
    Takes (midPass phase purpose pc tc read [] g) (toneEntry e)
      (midPass phase purpose pc tc (read ++ toneEntry e) [] { g with tones := g.tones ++ [(e.1, e.2.toList)] }) := by
  have size := toneEntry_length e
  have staged := toneEntry_read e
  have index : ((toneEntry e).getD 0 0).toNat ≤ 3 := by
    simp only [toneEntry, List.getD_cons_zero, BitVec.toNat_ofNat]
    omega
  generalize toneEntry e = entry at *
  have grows : ∀ off < 257, entry.take off ++ [entry.getD off 0] = entry.take (off + 1) :=
    fun off h => (take_succ_getD _ _ (by omega)).symm
  have window : ∀ off < 257, (entry.take off).length = off := fun off h => by
    rw [List.length_take]
    omega
  have inside : ∀ off < 257, ∀ b, b = midPass phase purpose pc tc (read ++ entry.take off) (entry.take off) g → ∀ v,
      bootByte b v = bootToneByte b v := by
    rintro off h _ rfl v
    have position : (midPass phase purpose pc tc (read ++ entry.take off) (entry.take off) g).position =
      read.length + off := by rw [midPass, List.length_append, window off h]
    exact bootByte_tone v (position ▸ (by change 7 + 37 * pc ≤ _; omega))
      (position ▸ (by change _ < 7 + 37 * pc + 257 * tc; omega))
  refine takes_entry (n := 256) size (fun st => { st with tones := st.tones ++ [(e.1, e.2.toList)] }) ?_ ?_
  · intro off h b at_
    have held : b.window = entry.take off := at_ ▸ rfl
    have count : b.window.length = off := by rw [held, window off (by omega)]
    rw [inside off (by omega) b at_, bootToneByte_waits _ (by omega), held, grows off (by omega)]
    intro first
    rwa [show off = 0 by omega]
  · intro b at_
    have held : b.window = entry.take 256 := at_ ▸ rfl
    have whole : b.window ++ [entry.getD 256 0] = entry := by
      rw [held, grows 256 (by decide), List.take_of_length_le (by omega)]
    rw [inside 256 (by decide) b at_, bootToneByte_ends (by rw [held, window 256 (by decide)]), whole, staged]

/-! ## The header and the sum (R162 tests 1 to 3 and 6) -/

theorem bootByte_header {b : BootLoader} (v : Byte) {k : Nat} (at_ : b.position = k) (inside : k < 7) :
    bootByte b v = bootHeaderByte b v := if_pos (by omega)

theorem takes_headerByte {pc' tc' : Nat} {read window window' : List Byte} {g : Staging} {v : Byte}
    (stage : Staging → Staging) (short : read.length < 7)
    (more : bootHeaderByte (midPass phase purpose pc tc read window g) v = .more
      { bootAdvance (midPass phase purpose pc tc read window g) v with
        profileCount := pc', toneCount := tc', window := window'
        staging := stage (midPass phase purpose pc tc read window g).staging }) :
    Takes (midPass phase purpose pc tc read window g) [v] (midPass phase purpose pc' tc' (read ++ [v]) window' (stage g)) := by
  rw [← bootByte_header v rfl short, bootAdvance_midPass] at more
  exact .single more (keepStaging_midPass stage read (read ++ [v]) window window' g pc' tc')

/-- R171: the bytes of an image before its entries. -/
def imageHeader (profileCount toneCount prescale divisor : Nat) : List Byte :=
  [67, 82, BitVec.ofNat 8 profileCount, BitVec.ofNat 8 toneCount, BitVec.ofNat 8 prescale] ++ beBytes 2 divisor

theorem takes_header {profileCount toneCount prescale divisor : Nat} (profiles : profileCount ≤ 16) (tones : toneCount ≤ 4)
    (code : prescale ≤ 31) (lo : 1 ≤ divisor) (hi : divisor ≤ 65535) :
    Takes (midPass phase purpose 0 0 [] [] {}) (imageHeader profileCount toneCount prescale divisor)
      (midPass phase purpose profileCount toneCount (imageHeader profileCount toneCount prescale divisor) []
        { prescale := prescale, divisor := divisor }) := by
  have small : ∀ n ≤ 31, (BitVec.ofNat 8 n).toNat = n := fun n h => by
    rw [BitVec.toNat_ofNat, Nat.mod_eq_of_lt (by omega)]
  have spelled : beValue (beBytes 2 divisor) = divisor := by
    rw [beValue_beBytes, Nat.mod_eq_of_lt (by omega)]
  obtain ⟨a, b, bytes⟩ : ∃ a b, beBytes 2 divisor = [a, b] := ⟨_, _, rfl⟩
  unfold imageHeader
  rw [bytes] at spelled ⊢
  have p := small profileCount (by omega)
  have t := small toneCount (by omega)
  have c := small prescale (by omega)
  generalize BitVec.ofNat 8 profileCount = profileByte at *
  generalize BitVec.ofNat 8 toneCount = toneByte at *
  generalize BitVec.ofNat 8 prescale = codeByte at *
  subst p t c
  let pass := midPass phase purpose
  have mark : Takes (pass 0 0 [] [] {}) [67] (pass 0 0 [67] [] {}) := takes_headerByte id (by simp) rfl
  have mark' : Takes (pass 0 0 [67] [] {}) [82] (pass 0 0 [67, 82] [] {}) :=
    takes_headerByte id (by simp) rfl
  have count : Takes (pass 0 0 [67, 82] [] {}) [profileByte] (pass profileByte.toNat 0 [67, 82, profileByte] [] {}) :=
    takes_headerByte id (by simp) (if_pos profiles)
  have count' : Takes (pass profileByte.toNat 0 [67, 82, profileByte] [] {}) [toneByte]
      (pass profileByte.toNat toneByte.toNat [67, 82, profileByte, toneByte] [] {}) :=
    takes_headerByte id (by simp) (if_pos tones)
  have setting : Takes (pass profileByte.toNat toneByte.toNat [67, 82, profileByte, toneByte] [] {}) [codeByte]
      (pass profileByte.toNat toneByte.toNat [67, 82, profileByte, toneByte, codeByte] []
        { prescale := codeByte.toNat }) :=
    takes_headerByte (fun g => { g with prescale := codeByte.toNat }) (by simp) (if_pos code)
  have high : Takes (pass profileByte.toNat toneByte.toNat [67, 82, profileByte, toneByte, codeByte] []
        { prescale := codeByte.toNat }) [a]
      (pass profileByte.toNat toneByte.toNat [67, 82, profileByte, toneByte, codeByte, a] [a]
        { prescale := codeByte.toNat }) :=
    takes_headerByte id (by simp) rfl
  have low : Takes (pass profileByte.toNat toneByte.toNat [67, 82, profileByte, toneByte, codeByte, a] [a]
        { prescale := codeByte.toNat }) [b]
      (pass profileByte.toNat toneByte.toNat [67, 82, profileByte, toneByte, codeByte, a, b] []
        { prescale := codeByte.toNat, divisor := beValue [a, b] }) :=
    takes_headerByte (fun g => { g with divisor := beValue [a, b] }) (by simp) (if_pos (by
      change beValue [a, b] ≠ 0
      omega))
  rw [← spelled]
  exact mark.append (mark'.append (count.append (count'.append (setting.append (high.append low)))))

end

/-! ## A whole image (R36, R162, R163) -/

/-- What the apply pass stages of an image. -/
def BootImage.staging (i : BootImage) : Staging where
  prescale := i.prescale
  divisor  := i.divisor
  profiles := i.profiles
  tones    := i.tones.map fun e => (e.1, e.2.toList)

theorem applyStaging_staging (i : BootImage) (t : TableStore) : applyStaging t i.staging = i.applied t := by
  unfold applyStaging BootImage.applied BootImage.staging
  dsimp only
  rw [List.foldl_map]
  simp only [setTone, toneTableOf_toList]
  rfl

theorem BootImage.content_eq (i : BootImage) :
    i.content = imageHeader i.profiles.length i.tones.length i.prescale i.divisor ++ i.profiles.flatMap profileEntry ++
      i.tones.flatMap toneEntry := rfl

theorem BootImage.content_length (i : BootImage) :
    i.content.length = 7 + 37 * i.profiles.length + 257 * i.tones.length := by
  simp only [BootImage.content_eq, List.length_append, List.length_flatMap, profileEntry_length, toneEntry_length,
    List.map_const', List.sum_replicate, imageHeader, beBytes_length, smul_eq_mul, List.length_cons, List.length_nil]
  omega

theorem foldl_profiles (g : Staging) (l : List (Fin 16 × Record)) :
    l.foldl (fun g e => { g with profiles := g.profiles ++ [e] }) g = { g with profiles := g.profiles ++ l } := by
  induction l generalizing g with
  | nil => rw [List.append_nil]; rfl
  | cons e rest ih => rw [List.foldl_cons, ih, List.append_assoc]; rfl

theorem foldl_tones (g : Staging) (l : List (Fin 4 × Vector Byte 256)) :
    l.foldl (fun g e => { g with tones := g.tones ++ [(e.1, e.2.toList)] }) g =
      { g with tones := g.tones ++ l.map fun e => (e.1, e.2.toList) } := by
  induction l generalizing g with
  | nil => rw [List.map_nil, List.append_nil]; rfl
  | cons e rest ih => rw [List.foldl_cons, ih, List.append_assoc]; rfl

section
variable (phase : BootPhase) (purpose : Option BootPurpose) {i : BootImage}

theorem takes_content (good : i.good) :
    Takes (midPass phase purpose 0 0 [] [] {}) i.content
      (midPass phase purpose i.profiles.length i.tones.length i.content [] i.staging) := by
  obtain ⟨code, lo, hi, profiles, tones, records⟩ := good
  have header := takes_header (phase := phase) (purpose := purpose) profiles tones code lo hi
  have size : (imageHeader i.profiles.length i.tones.length i.prescale i.divisor).length = 7 := rfl
  have sizes : (i.profiles.flatMap profileEntry).length = 37 * i.profiles.length := by
    simp only [List.length_flatMap, profileEntry_length, List.map_const', List.sum_replicate, smul_eq_mul]
    omega
  have entries := takes_entries (phase := phase) (purpose := purpose) (tc := i.tones.length) profileEntry _
    profileEntry_length (fun e mem read g => takes_profileEntry (records e mem) (g := g))
    { prescale := i.prescale, divisor := i.divisor } size.ge (by rw [size])
  have others := takes_entries (phase := phase) (purpose := purpose) (entries := i.tones) toneEntry _
    toneEntry_length (fun e _ read g => takes_toneEntry e (g := g))
    { prescale := i.prescale, divisor := i.divisor, profiles := i.profiles } (lo := 7 + 37 * i.profiles.length)
    (read := imageHeader i.profiles.length i.tones.length i.prescale i.divisor ++ i.profiles.flatMap profileEntry)
    (by rw [List.length_append, size, sizes]) (by rw [List.length_append, size, sizes])
  rw [foldl_profiles] at entries
  rw [foldl_tones] at others
  exact (header.append entries).append others

/-- R162: a good image's bytes pass their tests, and its last byte ends the pass. -/
theorem image_passes (good : i.good) :
    ∃ init lo b last, i.bytes = init ++ [lo] ∧ Takes (midPass phase purpose 0 0 [] [] {}) init b ∧
      b.phase = phase ∧ b.purpose = purpose ∧ bootByte b lo = .passed last ∧
      (phase = .apply → last.staging = i.staging) := by
  obtain ⟨hi, lo, bytes⟩ : ∃ hi lo, beBytes 2 ((i.content.map BitVec.toNat).sum % 65536) = [hi, lo] := ⟨_, _, rfl⟩
  have spelled : beValue [hi, lo] = (i.content.map BitVec.toNat).sum % 65536 := by
    rw [← bytes, beValue_beBytes]
    omega
  let b := midPass phase purpose i.profiles.length i.tones.length i.content [] i.staging
  have position : b.position = sumStart b := i.content_length
  have high : bootByte b hi = .more { b with position := b.position + 1, window := [hi] } := by
    rw [bootByte_sum hi position.ge, bootSumByte, if_pos position]
    rfl
  have low : bootByte { b with position := b.position + 1, window := [hi] } lo =
      .passed { b with position := b.position + 1 + 1, window := [] } := by
    have past : b.position + 1 ≠ sumStart b := by omega
    rw [bootByte_sum lo (by change sumStart b ≤ b.position + 1; omega), bootSumByte]
    dsimp only
    exact (if_neg past).trans (if_pos (spelled.trans (BitVec.toNat_ofNat (i.content.map BitVec.toNat).sum 16).symm))
  refine ⟨i.content ++ [hi], lo, _, _, ?_,
    (takes_content phase purpose good).append (.single high (keepStaging_of_staging rfl)), rfl, rfl, low, fun apply => if_pos apply⟩
  rw [BootImage.bytes, bytes, List.append_assoc]
  rfl

/-- The state in which the apply pass over the image begins. -/
def State.imageChecked (i : BootImage) (p : BootPurpose) (s : State) : State :=
  { s with boot := { phase := .apply, purpose := some p }, bus := busAddressing.reverse ++ i.passBus ++ s.bus }

/-- The state in which the image has been written, with the Boot Loader `b`. -/
def State.imageApplied (i : BootImage) (b : BootLoader) (s : State) : State :=
  { s with boot := b, bus := i.passBus ++ s.bus, tables := i.applied s.tables, time := {} }

/-- R161, R162: the check pass over a good image ends with a stop, and the apply pass begins. -/
theorem reads_checkPass {s : State} {p : BootPurpose} (good : i.good) (check : s.boot = checkPass p) :
    readsBytes i.bytes s = some (s.imageChecked i p) := by
  obtain ⟨init, lo, b, last, bytes, taken, phase, purpose, passed, -⟩ := image_passes .check (some p) good
  have begun : s.boot = midPass .check (some p) 0 0 [] [] {} := check
  have acked := Takes.readsBytes (s := s) (by rw [begun]; exact nofun) (begun ▸ taken)
  rw [State.imageChecked, BootImage.passBus, bytes, readsBytes_append acked, readsBytes_eq,
    List.length_append, List.length_singleton, Nat.add_sub_cancel]
  refine congrArg some ?_
  change State.bootByteRead lo _ = _
  rw [State.bootByteRead_checked phase passed, applyPass]
  dsimp only
  rw [purpose]
  rfl

/-- R163, R164, R166: the apply pass over a good image writes it and ends the boot load. -/
theorem reads_applyPass {s : State} {p : BootPurpose} (good : i.good)
    (apply : s.boot = { phase := .apply, purpose := some p }) :
    ∃ b : BootLoader, b.purpose = some p ∧ readsBytes i.bytes s = some ((s.imageApplied i b).endBootLoad .done) := by
  obtain ⟨init, lo, b, last, bytes, taken, phase, purpose, passed, staged⟩ := image_passes .apply (some p) good
  have begun : s.boot = midPass .apply (some p) 0 0 [] [] {} := apply
  refine ⟨b, purpose, ?_⟩
  have acked := Takes.readsBytes (s := s) (by rw [begun]; exact nofun) (begun ▸ taken)
  rw [State.imageApplied, BootImage.passBus, bytes, readsBytes_append acked, readsBytes_eq,
    List.length_append, List.length_singleton, Nat.add_sub_cancel]
  refine congrArg some ?_
  change State.bootByteRead lo _ = _
  rw [State.bootByteRead_applied phase passed, staged rfl, ← applyStaging_staging]
  rfl

end

/-- A byte that is taken and leaves the staging buffer: the position and the running sum advance. -/
theorem State.bootByteRead_advances {s : State} {v : Byte} (window : List Byte) (running : s.boot.phase ≠ .idle)
    (more : bootByte s.boot v = .more { bootAdvance s.boot v with window := window }) :
    exec (.bootByteRead v) s = .next
      { s with boot := { bootAdvance s.boot v with window := window }, bus := .ack :: s.bus } := by
  refine congrArg Host.Outcome.next ?_
  have kept : keepStaging s.boot { bootAdvance s.boot v with window := window } = _ := keepStaging_of_staging rfl
  rw [State.bootByteRead_more running more, kept]
  rfl

/-- R161 to R164: a good image read in both passes. -/
theorem reads_bothPasses {s : State} {i : BootImage} {p : BootPurpose} (good : i.good) (check : s.boot = checkPass p) :
    ∃ b : BootLoader, b.purpose = some p ∧ readsBytes (i.bytes ++ i.bytes) s =
      some (((s.imageChecked i p).imageApplied i b).endBootLoad .done) := by
  obtain ⟨b, purpose, applied⟩ := reads_applyPass (s := s.imageChecked i p) good rfl
  exact ⟨b, purpose, (readsBytes_append (reads_checkPass good check) _).trans applied⟩

theorem imageApplied_bus (i : BootImage) (p : BootPurpose) (b : BootLoader) (s : State) :
    (s.imageChecked i p).imageApplied i b =
      { s with
        boot := b, bus := i.passBus ++ busAddressing.reverse ++ i.passBus ++ s.bus, tables := i.applied s.tables
        time := {} } := by
  rw [State.imageApplied, State.imageChecked]
  simp only [List.append_assoc]

/-- Settles O45: the tests byte by byte; then the two passes over a whole image. -/
theorem goodBootImageApplied : Obligations.GoodBootImageApplied := by
  refine ⟨fun s v running => ⟨?_, ?_⟩, fun s i good => ⟨?_, ?_⟩⟩
  · rintro begins rfl
    have taken := State.bootByteRead_advances (v := 67) s.boot.window running (by
      rw [bootByte_header _ begins (by decide), bootHeaderByte, begins]
      rfl)
    rw [bootAdvance, begins] at taken
    exact taken
  · intro lo hi begun short
    refine State.bootByteRead_advances (s.boot.window ++ [v]) running ?_
    rw [bootByte_tone v lo hi, bootToneByte_waits (by omega) (by omega)]
  · intro tag check pending
    obtain ⟨b, purpose, whole⟩ := reads_bothPasses good check
    refine ⟨reads_checkPass good check, ?_⟩
    intro t
    have ended : ((s.imageChecked i .reload).imageApplied i b).reloadEnded tag .done = t := by
      rw [imageApplied_bus]
      rfl
    rw [State.endBootLoad_reload _ purpose (s := (s.imageChecked i .reload).imageApplied i b) pending, ended] at whole
    exact ⟨fun free => whole.trans (congrArg some (State.presentHeld_none free)), _, rfl, whole⟩
  · intro check
    obtain ⟨b, purpose, whole⟩ := reads_bothPasses good check
    rw [whole, State.endBootLoad_startUp _ purpose (s := (s.imageChecked i .startUp).imageApplied i b), imageApplied_bus]
    rfl

end Sys2Proof.Machine
end

section
/-! SUPPORT. One symbol that LRX takes at once (R135 to R137, R143): what it does in each parse state (O5, O8). -/

namespace Sys2Proof.Machine

section
variable {s : State} {sym : Symbol}

theorem exec_arrival (free : s.lrxFree = true) (empty : s.lrx.fifo = []) :
    exec (.symbolArrival sym) s = .next (s.takeSymbol sym) :=
  congrArg Host.Outcome.next (s.arrive_of_free sym free empty)

/-! ## The parse states (R135, R136) -/

theorem State.takeSymbol_tag_watch (tag : isTag sym = true) (parse : s.lrx.parse = .watch) :
    s.takeSymbol sym = s.beginHeader sym := by
  rw [State.takeSymbol, if_pos tag, parse]

theorem State.takeSymbol_tag_header {cls : UnitClass} {first : Symbol} {hi : Option Symbol} (tag : isTag sym = true)
    (parse : s.lrx.parse = .header cls first hi) : s.takeSymbol sym = s.tagInHeader sym := by
  rw [State.takeSymbol, if_pos tag, parse]

theorem State.takeSymbol_tag_body {u : CurrentUnit} (tag : isTag sym = true) (parse : s.lrx.parse = .body u) :
    s.takeSymbol sym = s.tagInUnit u sym := by
  rw [State.takeSymbol, if_pos tag, parse]

theorem State.takeSymbol_data_watch (data : isTag sym = false) (parse : s.lrx.parse = .watch) :
    s.takeSymbol sym = s.countExtraData := by
  rw [State.takeSymbol, if_neg (ne_true_of_eq_false data), parse]

theorem State.takeSymbol_data_header {cls : UnitClass} {first : Symbol} {hi : Option Symbol} (data : isTag sym = false)
    (parse : s.lrx.parse = .header cls first hi) : s.takeSymbol sym = s.takeLength cls first hi sym := by
  rw [State.takeSymbol, if_neg (ne_true_of_eq_false data), parse]

theorem State.takeSymbol_data_body {u : CurrentUnit} (data : isTag sym = false) (parse : s.lrx.parse = .body u) :
    s.takeSymbol sym = s.takeBody { u with remaining := u.remaining - 1 } sym := by
  rw [State.takeSymbol, if_neg (ne_true_of_eq_false data), parse]

/-! ## A header (R135) -/

/-- R135: a damaged header, before the parse state it leaves. -/
theorem State.damagedHeader (p : Parse) :
    s.countTagParity.withParse p =
      (s.withReq
        { s.req with
          tagParity := min 65535 (s.req.tagParity + 1)
          events := { s.req.events with tagParity := true } }).withLrx { s.lrx with parse := p } := rfl

theorem State.tagInHeader_eq :
    s.tagInHeader sym = s.countTagParity.withParse
      (if parityError sym = true then .watch else .header (classify s.partAddress sym) sym none) := by
  unfold State.tagInHeader
  split <;> rfl

theorem State.takeLength_damaged {cls : UnitClass} {tag : Symbol} {hi : Option Symbol} (bad : parityError sym = true) :
    s.takeLength cls tag hi sym = s.countTagParity.withParse .watch := by
  unfold State.takeLength
  rw [if_pos bad]
  rfl

theorem State.takeLength_first {cls : UnitClass} {tag : Symbol} (good : parityError sym = false) :
    s.takeLength cls tag none sym = s.withParse (.header cls tag (some sym)) := by
  unfold State.takeLength
  rw [if_neg (ne_true_of_eq_false good)]

theorem State.takeLength_second {cls : UnitClass} {tag hi : Symbol} (good : parityError sym = false) :
    s.takeLength cls tag (some hi) sym = s.lengthKnown cls tag hi sym := by
  unfold State.takeLength
  rw [if_neg (ne_true_of_eq_false good)]

/-- R136: where the data symbols of a unit go that LRX does not forward. -/
def firstDest (cls : UnitClass) (tag : Symbol) : Dest :=
  if cls = .dropped then .drop else if cls = .broadcast ∨ tagKind tag = 3 then .awaitKind [] else .awaitLane

theorem State.destOf_firstDest {cls : UnitClass} {tag hi lo : Symbol} (passed : cls ≠ .transit) :
    s.destOf cls tag hi lo = (s, firstDest cls tag) := by
  cases cls with
  | transit => exact absurd rfl passed
  | dropped => rfl
  | broadcast => rfl
  | own =>
    refine congrArg (Prod.mk s) ?_
    have request : tagKind tag = 3 ↔ UnitClass.own = .broadcast ∨ tagKind tag = 3 :=
      ⟨.inr, fun h => h.resolve_left (by decide)⟩
    exact (if_congr request rfl rfl).trans (if_neg (by decide)).symm

theorem State.lengthKnown_passed {cls : UnitClass} {tag hi : Symbol} (passed : cls ≠ .transit) :
    s.lengthKnown cls tag hi sym =
      if lengthOf hi sym = 0 then s.finishUnit ⟨cls, tag, hi, sym, 0, firstDest cls tag⟩ false
      else s.withParse (.body ⟨cls, tag, hi, sym, lengthOf hi sym, firstDest cls tag⟩) := by
  rw [State.lengthKnown, State.destOf_firstDest passed]
  dsimp only
  split
  · next none => rw [none]
  · rfl

end

/-- R138: the class of the unit that a good tag begins. -/
theorem classify_tagSymbol (kind : BitVec 3) (addr part : BitVec 5) :
    classify part (tagSymbol kind addr) =
      (if kind = 7 then .dropped
      else if 4 ≤ kind.toNat then .transit
      else if kind = 3 then (if addr = 31 then .broadcast else if addr = part then .own else .transit)
      else if addr = part ∧ addr ≠ 31 then .own
      else .transit) := by
  unfold classify
  rw [tagKind_tagSymbol, tagAddress_tagSymbol]
  have kinds : ∀ k : BitVec 3, k = 0 ∨ k = 1 ∨ k = 2 ∨ k = 3 ∨ k = 4 ∨ k = 5 ∨ k = 6 ∨ k = 7 := by decide
  have own : addr = part ∧ part ≠ 31 ↔ addr = part ∧ addr ≠ 31 := and_congr_right fun e => by rw [e]
  have image : (if addr = part ∧ part ≠ broadcastAddress then UnitClass.own else .transit) =
      if addr = part ∧ addr ≠ 31 then .own else .transit := if_congr own rfl rfl
  rcases kinds kind with rfl | rfl | rfl | rfl | rfl | rfl | rfl | rfl
  · exact image
  · exact image
  · exact image
  all_goals rfl

/-! ## The receive FIFO (R143) -/

section
variable {s : State} {sym : Symbol}

theorem State.arrive_waits (reset : s.resetLine = false) (busy : s.lrxFree = false) (room : s.lrx.fifo.length < 64) :
    s.arrive sym = s.withLrx { s.lrx with fifo := s.lrx.fifo ++ [sym] } := by
  rw [State.arrive_blocked sym reset busy, State.backlog]
  have places : ∃ k, fifoPlaces - s.lrx.fifo.length = k + 1 := ⟨63 - s.lrx.fifo.length, by
    change 64 - _ = _
    omega⟩
  obtain ⟨k, places⟩ := places
  rw [places]
  simp

theorem State.arrive_overruns (reset : s.resetLine = false) (full : 64 ≤ s.lrx.fifo.length) :
    s.arrive sym = s.countRxOverrun := by
  rw [State.arrive, reset, if_neg (by decide), if_neg (by change ¬ _ < 64; omega)]

/-- Settles O5: the receive FIFO, then LRX in WATCH, then inside a header, then the classes. -/
theorem symbolArrivesAndUnitBegins : Obligations.SymbolArrivesAndUnitBegins := by
  refine ⟨fun sym s => ⟨fun reset => ?_, fun reset busy room => ?_, fun reset _ full => ?_⟩,
    fun sym s free empty => ⟨fun watch => ?_, fun cls tag hi header => ⟨fun damaged => ?_, fun data good => ⟨?_, ?_⟩⟩⟩,
    classify_tagSymbol⟩
  · exact congrArg Host.Outcome.next (if_pos reset)
  · exact congrArg Host.Outcome.next (State.arrive_waits reset busy room)
  · exact congrArg Host.Outcome.next (State.arrive_overruns reset full)
  · rw [exec_arrival free empty]
    refine congrArg Host.Outcome.next ?_
    by_cases tag : isTag sym = true
    · rw [State.takeSymbol_tag_watch tag watch, if_neg (by rw [tag]; decide), State.beginHeader]
      have still : s.withParse .watch = s := by rw [State.withParse, ← watch]; rfl
      rw [still]
      rfl
    · have data := Bool.eq_false_iff.mpr tag
      rw [State.takeSymbol_data_watch data watch, if_pos data]
      rfl
  · rw [exec_arrival free empty, ← State.damagedHeader]
    refine congrArg Host.Outcome.next ?_
    by_cases tag : isTag sym = true
    · rw [State.takeSymbol_tag_header tag header, State.tagInHeader_eq]
      refine congrArg _ ?_
      by_cases bad : parityError sym = true
      · rw [if_pos bad, if_neg (by rw [bad]; simp)]
      · rw [if_neg bad, if_pos ⟨tag, Bool.eq_false_iff.mpr bad⟩]
    · rw [State.takeSymbol_data_header (Bool.eq_false_iff.mpr tag) header, if_neg (fun both => tag both.1),
        State.takeLength_damaged (damaged.resolve_left tag)]
  · rintro rfl
    rw [exec_arrival free empty, State.takeSymbol_data_header data header, State.takeLength_first good]
    rfl
  · rintro h rfl
    rw [exec_arrival free empty, State.takeSymbol_data_header data header, State.takeLength_second good]
    refine ⟨fun some passed => ?_, fun none dropped => ?_, fun none own image => ?_⟩
    · rw [State.lengthKnown_passed passed, if_neg some]
      rfl
    · subst dropped
      rw [State.lengthKnown_passed (by decide), if_pos none]
      rfl
    · subst own
      rw [State.lengthKnown_passed (by decide), if_pos none, firstDest, if_neg (by decide),
        if_neg (not_or.mpr ⟨by decide, image⟩)]
      rfl

/-! ## Transit units (R144, R145) -/

theorem State.lengthKnown_transit {tag hi : Symbol} :
    s.lengthKnown .transit tag hi sym =
      (s.writeHeader tag hi sym).1.withParse
        (if lengthOf hi sym = 0 then .watch
        else .body ⟨.transit, tag, hi, sym, lengthOf hi sym, .transit (s.writeHeader tag hi sym).2⟩) := by
  unfold State.lengthKnown State.destOf
  dsimp only
  split <;> rfl

theorem State.takeBody_transit {u : CurrentUnit} {written : Bool} (dest : u.dest = .transit written) :
    s.takeBody u sym = (s.writeData sym written).1.withUnit { u with dest := .transit (s.writeData sym written).2 } := by
  unfold State.takeBody
  rw [dest]

theorem State.writeData_eq (written : Bool) :
    s.writeData sym written =
      if written = true ∧ s.transit.length < 4096 then (s.withTransit (s.transit ++ [⟨sym, false⟩]), true)
      else (State.countTransitOverrun 1 (if written then s.endTransit else s), false) := by
  unfold State.writeData
  cases written with
  | false => rfl
  | true =>
    by_cases room : s.transit.length < 4096
    · rw [if_pos rfl, if_pos (show s.transit.length < transitPlaces from room), if_pos ⟨rfl, room⟩]
    · rw [if_pos rfl, if_neg (show ¬ s.transit.length < transitPlaces from room), if_neg (fun both => room both.2), if_pos rfl]

/-- Settles O8: the header, then a data symbol. -/
theorem transitSymbolsWrittenOrCounted : Obligations.TransitSymbolsWrittenOrCounted := by
  refine fun sym tag hi lo s free empty data => ⟨fun good header => ?_, fun left written body => ?_⟩
  · rw [exec_arrival free empty, State.takeSymbol_data_header data header, State.takeLength_second good,
      State.lengthKnown_transit]
    refine congrArg Host.Outcome.next ?_
    unfold State.writeHeader
    by_cases room : s.transit.length + 3 ≤ 4096
    · rw [if_pos (show s.transit.length + 3 ≤ transitPlaces from room)]
      dsimp only
      rw [if_pos room, decide_eq_true room]
      rfl
    · rw [if_neg (show ¬ s.transit.length + 3 ≤ transitPlaces from room)]
      dsimp only
      rw [if_neg room, decide_eq_false room]
      rfl
  · rw [exec_arrival free empty, State.takeSymbol_data_body data body, State.takeBody_transit (written := written) rfl,
      State.writeData_eq]
    refine congrArg Host.Outcome.next ?_
    dsimp only
    by_cases room : written = true ∧ s.transit.length < 4096
    · rw [if_pos room, if_pos room, decide_eq_true room]
      rfl
    · rw [if_neg room, if_neg room, decide_eq_false room, State.withUnit, State.withParse]
      have frame : (State.countTransitOverrun 1 (if written = true then s.endTransit else s)).lrx = s.lrx := by
        split
        · exact (TransitFrame.endTransit s).lrx
        · rfl
      dsimp only
      rw [frame]
      rfl

end

end Sys2Proof.Machine
end

section
/-! SUPPORT. R137: a tag inside a unit ends it early, and is then taken as in WATCH (O9). -/

namespace Sys2Proof.Machine

variable {s : State} {n : Fin 4} {sym : Symbol}

/-! ## The tag taken (R135, R137) -/

theorem State.beginHeader_eq : s.beginHeader sym = s.beginsUnit sym := by
  unfold State.beginHeader State.beginsUnit
  split <;> rfl

/-- The tag that begins a unit leaves no trace of the parse state before it. -/
theorem State.withParse_beginsUnit (p : Parse) : (s.withParse p).beginsUnit sym = s.beginsUnit sym := by
  unfold State.beginsUnit
  split <;> rfl

theorem State.lrxFree_hold (free : s.lrxFree = true) : s.lrx.hold = none := by
  simp only [State.lrxFree, Bool.and_eq_true, Option.isNone_iff_eq_none] at free
  exact free.1.1

/-- R137: the unit ends and leaves `t` but for the parse state, nothing held, and the tag is then taken. -/
theorem State.tagInUnit_ends {t : State} {u : CurrentUnit} (ends : s.finishUnit u true = t.withParse .watch)
    (unheld : t.lrx.hold = none) : s.tagInUnit u sym = t.beginsUnit sym := by
  have still : (t.withParse .watch).lrx.hold.isSome = false := by
    rw [State.withParse_lrx, unheld]
    rfl
  rw [State.tagInUnit, ends]
  dsimp only
  rw [still, if_neg (by decide), State.beginHeader_eq, State.withParse_beginsUnit]

theorem exec_tagInUnit {t : State} {u : CurrentUnit} (free : s.lrxFree = true) (empty : s.lrx.fifo = [])
    (parse : s.lrx.parse = .body u) (tag : isTag sym = true) (ends : s.finishUnit u true = t.withParse .watch)
    (link : t.lrx = s.lrx) : exec (.symbolArrival sym) s = .next (t.beginsUnit sym) := by
  rw [exec_arrival free empty, State.takeSymbol_tag_body tag parse,
    State.tagInUnit_ends ends (link ▸ State.lrxFree_hold free)]

/-! ## The end of a unit, by its destination (R137) -/

theorem State.withParse_laneUnitEnd (p : Parse) : (s.withParse p).laneUnitEnd n = (s.laneUnitEnd n).withParse p := by
  have moved := OffLink.laneUnitEnd n s { s.lrx with parse := p }
  rw [State.withParse, moved, State.withParse, (LaneFrame.laneUnitEnd n s).lrx]

theorem State.withParse_endTransit (p : Parse) : (s.withParse p).endTransit = s.endTransit.withParse p := by
  have moved := OffLink.endTransit s { s.lrx with parse := p }
  rw [State.withParse, moved, State.withParse, (TransitFrame.endTransit s).lrx]

theorem State.finishUnit_lane {u : CurrentUnit} (early : Bool) (dest : u.dest = .lane n) :
    s.finishUnit u early = (s.laneUnitEnd n).withParse .watch := by
  rw [State.finishUnit]
  rw [dest]
  exact State.withParse_laneUnitEnd .watch

theorem State.finishUnit_transit {u : CurrentUnit} (dest : u.dest = .transit true) :
    s.finishUnit u true = s.endTransit.withParse .watch := by
  rw [State.finishUnit]
  rw [dest]
  exact State.withParse_endTransit .watch

theorem State.finishUnit_drop {u : CurrentUnit} (early : Bool) (dest : u.dest = .drop ∨ u.dest = .transit false) :
    s.finishUnit u early = s.withParse .watch := by
  rw [State.finishUnit]
  rcases dest with dest | dest <;> rw [dest]
  cases early <;> rfl

theorem State.finishUnit_awaitLane {u : CurrentUnit} (early : Bool) (dest : u.dest = .awaitLane) :
    s.finishUnit u early = s.countStray.withParse .watch := by
  rw [State.finishUnit]
  rw [dest]
  rfl

/-! ## The end of the unit that a lane has taken (R3, R10, R13) -/

theorem State.laneUnitEnd_dropping (idle : (s.lane n).taking = .none ∨ (s.lane n).taking = .dropping) :
    s.laneUnitEnd n = s.setLane n (withTaking .none (s.lane n)) := by
  rw [State.laneUnitEnd]
  rcases idle with idle | idle <;> rw [idle] <;> rfl

/-- R3: an ITEM OPEN that ends with `data` is checked on it. -/
theorem State.laneUnitEnd_header {data : List DataByte} (taking : (s.lane n).taking = .header (data.map dataByteSymbol))
    (short : data.length < 10) :
    s.laneUnitEnd n =
      (s.checkOpen n ((data.map dataByteSymbol).take 10)).setLane n
        (withTaking .none ((s.checkOpen n ((data.map dataByteSymbol).take 10)).lane n)) := by
  have ends := State.laneData_header [] n s _ (by rw [List.length_map]; exact short) taking
  rw [List.append_nil] at ends
  exact ends

/-- R10: a line of which pixels are missing is made up. -/
theorem State.laneUnitEnd_short {a : Nat} {prev : Byte} (taking : (s.lane n).taking = .line a prev)
    (short : a < (s.lane n).header.wIn.toNat) : s.laneUnitEnd n = s.lineMadeUp n (s.lane n) a .none := by
  rw [← State.completeLine_short short .none, State.laneUnitEnd, taking]
  rfl

/-- R10: a line whose pixels have all arrived has ended already. -/
theorem State.laneUnitEnd_full {a : Nat} {prev : Byte} (taking : (s.lane n).taking = .line a prev)
    (full : (s.lane n).header.wIn.toNat ≤ a) : s.laneUnitEnd n = s.setLane n (withTaking .none (s.lane n)) := by
  have ends : s.completeLine n a = s := if_neg full.not_gt
  rw [State.laneUnitEnd, taking]
  dsimp only
  rw [ends]
  rfl

/-- R13: an ITEM CLOSE that ends with the symbols `syms` is checked on them. -/
theorem State.laneUnitEnd_close {syms : List Symbol} (taking : (s.lane n).taking = .close syms) (short : syms.length < 3)
    (opened : (s.lane n).state = .opened) :
    s.laneUnitEnd n = s.itemEnds n (countCheck syms { s.lane n with taking := .none }) := by
  have ends := State.laneData_close [] n s syms short opened taking
  rw [List.append_nil, List.take_of_length_le (by omega)] at ends
  exact ends

theorem countCheck_short {syms : List Symbol} (short : syms.length < 3) (l : Lane) :
    countCheck syms l = { l with flags := { l.flags with countMismatch := true } } := by
  rw [countCheck, declaredCount_short short]
  rfl

/-- Settles O9: by the destination of the unit that the tag ends, and for a lane by what it takes. -/
theorem unitEndedEarlyByTag : Obligations.UnitEndedEarlyByTag := by
  intro sym s u free empty parse tag
  refine ⟨fun dest => ?_, fun dest => ⟨fun rest last written => ?_, fun sent => ?_⟩, fun dest => ?_, fun n dest => ?_⟩
  · exact exec_tagInUnit free empty parse tag (State.finishUnit_drop true dest) rfl
  · have marked : s.endTransit = s.withTransit (rest ++ [{ last with endMark := true }]) := by
      rw [State.endTransit, if_neg (by rw [written]; simp), written, markLast_append]
    rw [← marked]
    exact exec_tagInUnit free empty parse tag (State.finishUnit_transit dest) (TransitFrame.endTransit s).lrx
  · have ended : s.endTransit = _ := if_pos sent
    have taken := exec_tagInUnit free empty parse tag (State.finishUnit_transit dest) (TransitFrame.endTransit s).lrx
    exact taken.trans (congrArg (fun t => Host.Outcome.next (State.beginsUnit sym t)) ended)
  · exact exec_tagInUnit free empty parse tag (State.finishUnit_awaitLane true dest) rfl
  · have ended := exec_tagInUnit free empty parse tag (State.finishUnit_lane true dest) (LaneFrame.laneUnitEnd n s).lrx
    refine ⟨fun idle => ?_, fun data taking short => ?_, fun arrived prev taking => ⟨fun short => ?_, fun full => ?_⟩,
      fun syms taking short opened => ?_⟩
    · rw [ended, State.laneUnitEnd_dropping idle]
      rfl
    · have refused : headerRefused data := .inl short
      rw [ended, State.laneUnitEnd_header taking short, State.checkOpen_refused .none refused]
      rfl
    · rw [ended, State.laneUnitEnd_short taking short]
    · rw [ended, State.laneUnitEnd_full taking full]
      rfl
    · rw [ended, State.laneUnitEnd_close taking short opened, countCheck_short short]

end Sys2Proof.Machine
end

section
/-! SUPPORT. What a unit does when it is presented to its lane or to the Request Unit (R2, R12, R14, R140 to R142, R149). -/

namespace Sys2Proof.Machine

variable {s : State} {n : Fin 4}

/-! ## An image unit presented to its lane (R2, R141) -/

/-- R2, R141: refused for the present: it is held, and nothing else changes. -/
theorem State.presentImage_held {h : Held} {laneSym : Symbol}
    (refused : (s.lane n).state = .closing ∨ tagKind h.unit.tag = 0 ∧ s.req.bootRunning.isSome = true) :
    s.presentImage n h laneSym = s.withHold (some h) := by
  unfold State.presentImage
  dsimp only
  by_cases reload : tagKind h.unit.tag = 0 ∧ s.req.bootRunning.isSome = true
  · exact if_pos reload
  · have closing := refused.resolve_right reload
    refine (if_neg reload).trans ((if_pos ?_).trans (if_pos closing))
    rw [laneRefuses, closing]
    rfl

/-- R12, R14: a LINE or ITEM CLOSE for an IDLE lane is a stray. -/
theorem State.presentImage_stray {h : Held} {laneSym : Symbol} (kind : tagKind h.unit.tag ≠ 0)
    (idle : (s.lane n).state = .idle) :
    s.presentImage n h laneSym = ((s.withHold none).withUnit { h.unit with dest := .drop }).countStray := by
  unfold State.presentImage
  dsimp only
  refine (if_neg fun reload => kind reload.1).trans ((if_neg ?_).trans (if_pos ?_))
  · simp [laneRefuses, idle]
  · simpa [isStray, idle, kindItemOpen] using kind

/-- R2: a unit that its lane takes. -/
theorem State.presentImage_taken {h : Held} {laneSym : Symbol}
    (free : tagKind h.unit.tag = 0 → s.req.bootRunning = none ∧ (s.lane n).state = .idle)
    (other : tagKind h.unit.tag ≠ 0 → (s.lane n).state = .opened ∨ (s.lane n).state = .discard) :
    s.presentImage n h laneSym = s.acceptImage n h laneSym := by
  unfold State.presentImage
  dsimp only
  refine (if_neg fun reload => ?_).trans ((if_neg ?_).trans (if_neg ?_))
  · rw [(free reload.1).1] at reload
    exact absurd reload.2 (by decide)
  · by_cases kind : tagKind h.unit.tag = 0
    · simp [laneRefuses, (free kind).2]
    · have open_ : (tagKind h.unit.tag == kindItemOpen) = false := beq_eq_false_iff_ne.mpr kind
      rcases other kind with state | state <;> simp [laneRefuses, state, open_]
  · by_cases kind : tagKind h.unit.tag = 0
    · simp [isStray, kind, kindItemOpen]
    · rcases other kind with state | state <;> simp [isStray, state]

/-- R2, R140: an image unit with a lane symbol, presented. -/
theorem State.present_image {h : Held} {laneSym : Symbol} (data : h.data = [laneSym]) (kind : tagKind h.unit.tag ≠ 3)
    (lane : (symValue laneSym).toNat = n.val) : s.present h = s.presentImage n h laneSym := by
  unfold State.present
  rw [if_neg (show ¬ tagKind h.unit.tag = kindRequest from kind), data]
  dsimp only
  rw [lane, ofNat_lane]

theorem State.present_request {h : Held} (kind : tagKind h.unit.tag = 3) : s.present h = s.presentRequest h := if_pos kind

/-- R2: what a lane does on the lane symbol of a unit that it takes. -/
theorem State.beginImage_open (sym : Symbol) :
    s.beginImage 0 n sym = s.setLane n { s.lane n with taking := .header [sym] } :=
  if_neg fun close => absurd close.1 (by decide)

/-- R9, R12: a LINE that a lane takes is counted, or it is capped. -/
theorem State.beginImage_line (sym : Symbol) :
    s.beginImage 1 n sym = s.setLane n
      (if (s.lane n).lineCount < 4096 then
        { s.lane n with
          stallTimer := 0
          lineCount := (s.lane n).lineCount + 1
          taking := if (s.lane n).state = .discard then .dropping else .line 0 255 }
      else
        { s.lane n with
          stallTimer := 0, flags := { (s.lane n).flags with lineCap := true }, taking := .dropping }) := by
  refine (if_neg fun close => absurd close.1 (by decide)).trans (congrArg (s.setLane n) ?_)
  change (if (s.lane n).state = .discard then discardLine (s.lane n) else beginLine (s.lane n)) = _
  by_cases discard : (s.lane n).state = .discard
  · rw [if_pos discard, if_pos discard]
    rfl
  · rw [if_neg discard, if_neg discard]
    rfl

theorem State.beginImage_close (sym : Symbol) (opened : (s.lane n).state = .opened) :
    s.beginImage 2 n sym = s.setLane n { s.lane n with taking := .close [sym] } :=
  if_neg fun close => absurd close.2 (by rw [opened]; decide)

theorem State.beginImage_closeDiscard (sym : Symbol) (discard : (s.lane n).state = .discard) :
    s.beginImage 2 n sym = s.itemEnds n { s.lane n with taking := .dropping } :=
  (if_pos ⟨rfl, discard⟩).trans (State.setLane_closeLane s n _ (.inr discard))

/-! ## A request presented to the Request Unit (R141, R142, R149) -/

theorem State.refusesRequest_symbols (data : List Symbol) :
    s.refusesRequest data = true ↔
      8 ≤ s.replies.length + s.req.owed ∨
        (s.req.bootRunning.isSome = true ∧ ∃ sym, data[1]? = some sym ∧ parityError sym = false ∧ symValue sym = 9) := by
  refine Bool.or_eq_true_iff.trans (or_congr decide_eq_true_iff ?_)
  simp only [Bool.and_eq_true, Option.any_eq_true, Bool.not_eq_true', beq_iff_eq, kindReloadBoot]

theorem State.presentRequest_held {h : Held} (refused : s.refusesRequest h.data = true) :
    s.presentRequest h = s.withHold (some h) := if_pos refused

/-- R142, R149: a request that the Request Unit takes; one whose end has passed is executed. -/
theorem State.presentRequest_takes {h : Held} (taken : s.refusesRequest h.data = false) :
    s.presentRequest h =
      if h.ended = true then
        (if h.data.length < lengthOf h.unit.hi h.unit.lo then (s.requestTaken h.unit h.data).cutCopy h.unit
        else s.requestTaken h.unit h.data).requestEnd
      else s.requestTaken h.unit h.data := by
  have start : (((s.withHold none).withUnit { h.unit with dest := .request }).startCopy h.unit h.data).takeRequest
      (unitLength h.unit) h.data = s.requestTaken h.unit h.data := by
    unfold State.startCopy State.requestTaken
    by_cases broadcast : h.unit.cls = .broadcast
    · rw [if_pos broadcast, if_pos broadcast, if_pos broadcast]
      rfl
    · rw [if_neg broadcast, if_neg broadcast, if_neg broadcast]
      rfl
  unfold State.presentRequest
  rw [taken, if_neg (by decide)]
  dsimp only
  rw [start]
  rfl

end Sys2Proof.Machine
end

section
/-! SUPPORT. R136, R140: one data symbol of a unit, by the place to which its data goes (O6). -/

namespace Sys2Proof.Machine

variable {s : State} {n : Fin 4}

/-! ## A data symbol of the unit that a lane takes (R3, R9 to R13) -/

/-- What a lane does on a data symbol of the unit it takes, the last one if `last`. -/
def State.laneTakes (n : Fin 4) (last : Prop) [Decidable last] (sym : Symbol) (s : State) : State :=
  if last then (s.laneData n sym).laneUnitEnd n else s.laneData n sym

section
variable {last : Prop} [Decidable last] {d : DataByte}

/-- The lane after its unit's last symbol, or with its unit going on. -/
theorem State.laneTakes_dropping (idle : (s.lane n).taking = .none ∨ (s.lane n).taking = .dropping) (sym : Symbol) :
    s.laneTakes n last sym = s.setLane n (withTaking (if last then .none else (s.lane n).taking) (s.lane n)) := by
  have still : s.laneData n sym = s := by
    unfold State.laneData
    rcases idle with idle | idle <;> rw [idle]
  unfold State.laneTakes
  rw [still]
  split
  · exact State.laneUnitEnd_dropping idle
  · exact (State.setLane_withTaking rfl).symm

theorem State.laneData_header_more {syms : List Symbol} (taking : (s.lane n).taking = .header syms)
    (short : syms.length < 9) (sym : Symbol) :
    s.laneData n sym = s.setLane n { s.lane n with taking := .header (syms ++ [sym]) } := by
  unfold State.laneData
  rw [taking]
  exact if_neg (by omega)

/-- R3: an ITEM OPEN is checked with its tenth data symbol, or with its last. -/
theorem State.laneTakes_header {data : List DataByte} (taking : (s.lane n).taking = .header (data.map dataByteSymbol))
    (short : data.length < 10) (ends : data.length = 9 ∨ last) :
    (let t := s.checkOpen n (((data ++ [d]).map dataByteSymbol).take 10)
     s.laneTakes n last (dataByteSymbol d) = t.setLane n (withTaking (if last then .none else .dropping) (t.lane n))) := by
  have size : (data.map dataByteSymbol).length = data.length := List.length_map ..
  intro t
  unfold State.laneTakes
  by_cases past : last
  · rw [if_pos past, if_pos past]
    have taken := State.laneData_header [dataByteSymbol d] n s _ (by omega) taking
    simp only [List.foldl_cons, List.foldl_nil] at taken
    rw [taken, ← List.map_singleton, ← List.map_append]
    rfl
  · rw [if_neg past, if_neg past, State.setLane_withTaking (State.checkOpen_dropping ..)]
    have nine := ends.resolve_right past
    unfold State.laneData
    rw [taking]
    refine (if_pos (by omega)).trans ?_
    have whole : ((data ++ [d]).map dataByteSymbol).take 10 = data.map dataByteSymbol ++ [dataByteSymbol d] := by
      rw [List.take_of_length_le (by simp; omega), List.map_append, List.map_singleton]
    rw [whole]

/-- R9, R11: a pixel below the last of its line is passed on. -/
theorem State.laneData_pixel {arrived : Nat} {prev : Byte} (taking : (s.lane n).taking = .line arrived prev)
    (below : arrived + 1 < (s.lane n).header.wIn.toNat) :
    s.laneData n (dataByteSymbol d) = s.setLane n
      { pixelPassed prev d (s.lane n) with taking := .line (arrived + 1) (if d.bad then prev else d.value) } := by
  unfold State.laneData
  rw [taking]
  refine (if_pos (by omega)).trans ((if_neg (by omega)).trans ?_)
  rw [takePixel_eq]

/-- R10: a line whose unit ends with a pixel below its last is made up. -/
theorem State.laneTakes_short {arrived : Nat} {prev : Byte} (taking : (s.lane n).taking = .line arrived prev)
    (below : arrived + 1 < (s.lane n).header.wIn.toNat) :
    (s.laneData n (dataByteSymbol d)).laneUnitEnd n =
      s.lineMadeUp n (pixelPassed prev d (s.lane n)) (arrived + 1) .none := by
  rw [State.laneData_pixel taking below,
    State.laneUnitEnd_short (a := arrived + 1) (prev := if d.bad then prev else d.value)
      (by rw [State.setLane_lane_same]) (by rw [State.setLane_lane_same]; exact below), State.setLane_lane_same]
  exact State.setLane_lineEnds _ rfl

/-- R9, R45: the W_in-th pixel ends the line. -/
theorem State.laneTakes_lineEnds {arrived : Nat} {prev : Byte} (taking : (s.lane n).taking = .line arrived prev)
    (full : arrived + 1 = (s.lane n).header.wIn.toNat) :
    s.laneTakes n last (dataByteSymbol d) = s.lineEnds n
      { pixelPassed prev d (s.lane n) with
        taking := if last then .none else .line (arrived + 1) (if d.bad then prev else d.value) } := by
  have ended : s.laneData n (dataByteSymbol d) = s.lineEnds n
      { pixelPassed prev d (s.lane n) with taking := .line (arrived + 1) (if d.bad then prev else d.value) } := by
    unfold State.laneData
    rw [taking]
    refine (if_pos (by omega)).trans ((if_pos full).trans ?_)
    rw [takePixel_eq]
    exact State.setLane_endLineOf s n _ rfl
  unfold State.laneTakes
  rw [ended]
  split
  · rw [State.laneUnitEnd_full State.lineEnds_taking (by rw [State.lineEnds_header]; exact full.ge),
      State.lineEnds_withTaking]
    rfl
  · rfl

/-- R10, R11: a pixel beyond W_in makes the line a long one. -/
theorem State.laneTakes_surplus {arrived : Nat} {prev : Byte} (taking : (s.lane n).taking = .line arrived prev)
    (past : (s.lane n).header.wIn.toNat ≤ arrived) (sym : Symbol) :
    (let l := s.lane n
     s.laneTakes n last sym = s.setLane n
      { l with
        longLines := if arrived = l.header.wIn.toNat then l.longLines + 1 else l.longLines
        flags := { l.flags with longLines := l.flags.longLines || decide (arrived = l.header.wIn.toNat) }
        taking := if last then .none else .line (arrived + 1) prev }) := by
  intro l
  have counted : s.laneData n sym = s.setLane n
      { l with
        longLines := if arrived = l.header.wIn.toNat then l.longLines + 1 else l.longLines
        flags := { l.flags with longLines := l.flags.longLines || decide (arrived = l.header.wIn.toNat) }
        taking := .line (arrived + 1) prev } := by
    unfold State.laneData
    rw [taking]
    refine (if_neg past.not_gt).trans ?_
    rw [surplusPixel_eq, noteLine]
    by_cases first : arrived = (s.lane n).header.wIn.toNat
    · rw [if_pos first, if_pos first]
    · rw [if_neg first, if_neg first]
      rfl
  unfold State.laneTakes
  rw [counted]
  split
  · rw [State.laneUnitEnd_full (a := arrived + 1) (prev := prev) (by rw [State.setLane_lane_same])
      (by rw [State.setLane_lane_same]; exact past.trans (Nat.le_succ _)), State.setLane_lane_same, State.setLane_setLane]
    rfl
  · rfl

theorem State.laneData_close_more {syms : List Symbol} (taking : (s.lane n).taking = .close syms)
    (short : syms.length < 2) (sym : Symbol) :
    s.laneData n sym = s.setLane n { s.lane n with taking := .close (syms ++ [sym]) } := by
  unfold State.laneData
  rw [taking]
  exact if_neg (by omega)

theorem countCheck_state (syms : List Symbol) (l : Lane) : (countCheck syms l).state = l.state := by
  unfold countCheck
  split <;> rfl

/-- R13: an ITEM CLOSE is checked with its third data symbol, or with its last. -/
theorem State.laneTakes_close {syms : List Symbol} (taking : (s.lane n).taking = .close syms) (short : syms.length < 3)
    (opened : (s.lane n).state = .opened) (ends : syms.length = 2 ∨ last) (sym : Symbol) :
    s.laneTakes n last sym =
      s.itemEnds n (countCheck ((syms ++ [sym]).take 3) { s.lane n with taking := if last then .none else .dropping }) := by
  unfold State.laneTakes
  by_cases past : last
  · rw [if_pos past, if_pos past]
    exact State.laneData_close [sym] n s syms short opened taking
  · rw [if_neg past, if_neg past]
    have two := ends.resolve_right past
    unfold State.laneData
    rw [taking]
    refine (if_pos (by omega)).trans ?_
    rw [List.take_of_length_le (by simp; omega)]
    exact State.setLane_closeLane s n _ (.inl ((countCheck_state ..).trans opened))

/-- R13: when the declared count of an ITEM CLOSE agrees, on the data symbols it has. -/
theorem declaredCount_received {data : List DataByte} (short : data.length < 3) (k : Nat) :
    declaredCount (((data ++ [d]).map dataByteSymbol).take 3) = some k ↔
      data.length = 2 ∧ (∀ e ∈ (data ++ [d]).drop 1, e.bad = false) ∧ receivedField (data ++ [d]) 1 2 = k := by
  match data, short with
  | [], _ => simp [declaredCount]
  | [a], _ => simp [declaredCount]
  | [a, b], _ =>
    refine (declaredCount_eq_some a [b, d] k).trans ?_
    have field : receivedField ([a, b] ++ [d]) 1 2 = 256 * b.value.toNat + d.value.toNat := by
      simp [receivedField, beValue, Nat.mul_comm]
    rw [field]
    simp [and_assoc]

end

/-! ## A data symbol at its unit (R136, R140) -/

theorem exec_data {sym : Symbol} {u : CurrentUnit} {left : Nat} (free : s.lrxFree = true) (empty : s.lrx.fifo = [])
    (parse : s.lrx.parse = .body u) (data : isTag sym = false) (more : u.remaining = left + 1) :
    exec (.symbolArrival sym) s = .next (s.takeBody { u with remaining := left } sym) := by
  rw [exec_arrival free empty, State.takeSymbol_data_body data parse, more]
  rfl

theorem State.withParse_self {p : Parse} (parse : s.lrx.parse = p) : s.withParse p = s := by
  rw [State.withParse, ← parse]
  rfl

theorem State.withUnit_unheld {u : CurrentUnit} (p : Parse) (unheld : s.lrx.hold = none) :
    ((s.withParse p).withHold none).withUnit u = s.withUnit u := by
  rw [State.withHold, State.withUnit, State.withUnit, ← unheld]
  rfl

theorem State.takeBody_lane {sym : Symbol} {u : CurrentUnit} (dest : u.dest = .lane n) :
    s.takeBody u sym = (s.withUnit u).laneTakes n (u.remaining = 0) sym := by
  unfold State.takeBody State.laneTakes
  rw [dest]
  dsimp only
  by_cases ends : u.remaining = 0
  · rw [if_pos ends, if_pos ends, State.finishUnit_lane false dest]
    refine State.withParse_self ?_
    rw [(LaneFrame.laneUnitEnd n _).lrx, (LaneFrame.laneData n _ sym).lrx, State.withUnit_lrx, if_pos ends]
  · rw [if_neg ends, if_neg ends]

theorem State.present_laneSymbol {u : CurrentUnit} {d : DataByte} (ended : Bool) (kind : tagKind u.tag ≠ 3)
    (lane : d.value.toNat = n.val) :
    s.present { unit := u, data := [dataByteSymbol d], ended := ended } =
      s.presentImage n { unit := u, data := [dataByteSymbol d], ended := ended } (dataByteSymbol d) :=
  State.present_image rfl kind (by rw [symValue_dataByteSymbol, lane])

/-- R140: a unit without a good lane symbol of 0 to 3, and a LINE or ITEM CLOSE for an IDLE lane. -/
theorem State.takeLaneSymbol_stray {u : CurrentUnit} {d : DataByte} (unheld : s.lrx.hold = none)
    (kind : tagKind u.tag ≠ 3)
    (stray : d.bad = true ∨ 3 < d.value.toNat ∨
      tagKind u.tag ≠ 0 ∧ (s.lane (Fin.ofNat 4 d.value.toNat)).state = .idle) :
    s.takeLaneSymbol u (dataByteSymbol d) = (s.withUnit { u with dest := .drop }).countStray := by
  unfold State.takeLaneSymbol
  rw [parityError_dataByteSymbol, symValue_dataByteSymbol]
  by_cases bad : (d.bad || decide (3 < d.value.toNat)) = true
  · exact if_pos bad
  · have small : d.value.toNat ≤ 3 := by
      simp only [Bool.or_eq_true, decide_eq_true_eq] at bad
      omega
    obtain ⟨other, idle⟩ : tagKind u.tag ≠ 0 ∧ (s.lane (Fin.ofNat 4 d.value.toNat)).state = .idle := by
      simp only [Bool.or_eq_true, decide_eq_true_eq] at bad
      tauto
    have lane : d.value.toNat = (Fin.ofNat 4 d.value.toNat).val := (Nat.mod_eq_of_lt (by omega)).symm
    rw [if_neg bad, State.present_laneSymbol _ kind lane,
      State.presentImage_stray (s := s.withParse .watch) (h := ⟨u, _, _⟩) other idle,
      State.withUnit_unheld _ unheld]

/-- R2, R140: a unit that goes on, taken by the lane that its lane symbol names. -/
theorem State.takeLaneSymbol_taken {u : CurrentUnit} {d : DataByte} (unheld : s.lrx.hold = none) (good : d.bad = false)
    (lane : d.value.toNat = n.val) (kind : tagKind u.tag ≠ 3) (more : u.remaining ≠ 0)
    (free : tagKind u.tag = 0 → s.req.bootRunning = none ∧ (s.lane n).state = .idle)
    (other : tagKind u.tag ≠ 0 → (s.lane n).state = .opened ∨ (s.lane n).state = .discard) :
    s.takeLaneSymbol u (dataByteSymbol d) =
      (s.withUnit { u with dest := .lane n }).beginImage (tagKind u.tag) n (dataByteSymbol d) := by
  unfold State.takeLaneSymbol
  rw [parityError_dataByteSymbol, symValue_dataByteSymbol, good, Bool.false_or, if_neg (by simp; omega),
    State.present_laneSymbol _ kind lane,
    State.presentImage_taken (s := s.withParse .watch) (h := ⟨u, _, _⟩) free other, State.acceptImage,
    State.withUnit_unheld _ unheld]
  exact if_neg (by simpa using more)

/-- R140: a request's tag symbol. -/
theorem State.takeBody_requestTag {u : CurrentUnit} (dest : u.dest = .awaitKind []) (more : u.remaining ≠ 0) (sym : Symbol) :
    s.takeBody u sym = s.withUnit { u with dest := .awaitKind [sym] } := by
  unfold State.takeBody
  rw [dest]
  change State.takeKindSymbol u [] sym s = _
  unfold State.takeKindSymbol
  refine (if_pos (show ([] ++ [sym]).length < 2 from Nat.one_lt_two)).trans ((if_neg more).trans ?_)
  exact (congrArg s.withParse (if_neg more)).symm

/-- R140, R149: a request's kind symbol presents it. -/
theorem State.takeBody_requestKind {u : CurrentUnit} {first : Symbol} (dest : u.dest = .awaitKind [first])
    (kind : tagKind u.tag = 3) (sym : Symbol) :
    s.takeBody u sym =
      (s.withParse .watch).presentRequest { unit := u, data := [first, sym], ended := decide (u.remaining = 0) } := by
  unfold State.takeBody
  rw [dest]
  exact State.present_request kind

/-- R142: what a further symbol leaves of the copy. -/
theorem State.extendCopy_eq (u : CurrentUnit) (sym : Symbol) :
    s.extendCopy u sym = s.withLrx
      { s.lrx with
        copy := if u.cls = .broadcast ∧ ¬262 ≤ s.lrx.copy.length then s.lrx.copy ++ [sym] else s.lrx.copy
        copyCut := s.lrx.copyCut || decide (u.cls = .broadcast ∧ 262 ≤ s.lrx.copy.length) } := by
  have room : s.lrx.copy.length < copySymbols ↔ ¬262 ≤ s.lrx.copy.length := not_le.symm
  unfold State.extendCopy
  by_cases broadcast : u.cls = .broadcast
  · rw [if_pos broadcast]
    by_cases full : 262 ≤ s.lrx.copy.length
    · rw [if_neg (fun below => room.mp below full), if_neg (fun both => both.2 full), decide_eq_true ⟨broadcast, full⟩,
        Bool.or_true]
    · rw [if_pos (room.mpr full), if_pos ⟨broadcast, full⟩, decide_eq_false (fun both => full both.2), Bool.or_false]
  · rw [if_neg broadcast, if_neg (fun both => broadcast both.1), decide_eq_false (fun both => broadcast both.1),
      Bool.or_false]
    rfl

/-- R142, R149: the state in which a further symbol of the request `q` is recorded, and copied if it is a broadcast one. -/
def State.requestRecords (u : CurrentUnit) (q : RequestInProgress) (sym : Symbol) (s : State) : State :=
  (s.withReq { s.req with inProgress := some (recordSymbol q sym) }).withLrx
    { s.lrx with
      copy := if u.cls = .broadcast ∧ ¬262 ≤ s.lrx.copy.length then s.lrx.copy ++ [sym] else s.lrx.copy
      copyCut := s.lrx.copyCut || decide (u.cls = .broadcast ∧ 262 ≤ s.lrx.copy.length) }

theorem State.requestData_extendCopy {u : CurrentUnit} {q : RequestInProgress} (taken : s.req.inProgress = some q)
    (sym : Symbol) : (s.extendCopy u sym).requestData sym = s.requestRecords u q sym := by
  rw [State.extendCopy_eq, State.requestData, State.withLrx_req, taken]
  rfl

/-- R142, R149: a further symbol of a request in progress. -/
theorem State.takeBody_request {u : CurrentUnit} {q : RequestInProgress} (dest : u.dest = .request)
    (taken : s.req.inProgress = some q) (sym : Symbol) :
    s.takeBody u sym =
      if u.remaining = 0 then ((s.withUnit u).requestRecords u q sym).finishUnit u false
      else (s.withUnit u).requestRecords u q sym := by
  unfold State.takeBody
  rw [dest]
  dsimp only
  rw [State.requestData_extendCopy (s := s.withUnit u) taken]

theorem State.takeBody_awaitLane {u : CurrentUnit} (dest : u.dest = .awaitLane) (sym : Symbol) :
    s.takeBody u sym = s.takeLaneSymbol u sym := by
  unfold State.takeBody
  rw [dest]

/-! ## The statement (O6) -/

section
variable {u : CurrentUnit} {left : Nat} {d : DataByte}

/-- R2, R9, R12 to R14: the lane symbol of a unit that goes on, at the lane that takes the unit. -/
theorem State.takeLaneSymbol_byKind (unheld : s.lrx.hold = none) (good : d.bad = false) (lane : d.value.toNat = n.val)
    (more : u.remaining ≠ 0) :
    (let t := s.withUnit { u with dest := .lane n }
     let l := s.lane n
     (tagKind u.tag = 0 → l.state = .idle → s.req.bootRunning = none →
       s.takeLaneSymbol u (dataByteSymbol d) = t.setLane n { l with taking := .header [dataByteSymbol d] }) ∧
     (tagKind u.tag = 1 → l.state = .opened ∨ l.state = .discard →
       s.takeLaneSymbol u (dataByteSymbol d) = t.setLane n
        (if l.lineCount < 4096 then
          { l with
            stallTimer := 0
            lineCount := l.lineCount + 1
            taking := if l.state = .opened then .line 0 255 else .dropping }
        else { l with stallTimer := 0, flags := { l.flags with lineCap := true }, taking := .dropping })) ∧
     (tagKind u.tag = 2 → l.state = .opened →
       s.takeLaneSymbol u (dataByteSymbol d) = t.setLane n { l with taking := .close [dataByteSymbol d] }) ∧
     (tagKind u.tag = 2 → l.state = .discard →
       s.takeLaneSymbol u (dataByteSymbol d) = t.itemEnds n { l with taking := .dropping })) := by
  intro t l
  have begins := fun kind free other => State.takeLaneSymbol_taken (u := u) unheld good lane kind more free other
  refine ⟨fun kind idle boot => ?_, fun kind state => ?_, fun kind opened => ?_, fun kind discard => ?_⟩
  · rw [begins (by rw [kind]; decide) (fun _ => ⟨boot, idle⟩) (fun other => absurd kind other), kind]
    exact State.beginImage_open _
  · rw [begins (by rw [kind]; decide) (fun open_ => absurd (kind.symm.trans open_) (by decide)) (fun _ => state), kind]
    refine (State.beginImage_line _).trans ?_
    have taking : (if l.state = .discard then Taking.dropping else .line 0 255) =
        if l.state = .opened then .line 0 255 else .dropping := by
      rcases state with state | state <;> rw [state] <;> rfl
    rw [← taking]
    rfl
  · rw [begins (by rw [kind]; decide) (fun open_ => absurd (kind.symm.trans open_) (by decide)) (fun _ => .inl opened), kind]
    exact State.beginImage_close _ opened
  · rw [begins (by rw [kind]; decide) (fun open_ => absurd (kind.symm.trans open_) (by decide)) (fun _ => .inr discard), kind]
    exact State.beginImage_closeDiscard _ discard

/-- R3 to R5: the end of the header of an ITEM OPEN, by what its check finds. -/
theorem State.laneTakes_headerEnds {last : Prop} [Decidable last] {data : List DataByte}
    (taking : (s.lane n).taking = .header (data.map dataByteSymbol)) (short : data.length < 10)
    (ends : data.length = 9 ∨ last) :
    (let h := receivedHeader (data ++ [d])
     let slot := s.tables.profiles[Fin.ofNat 16 h.profile.toNat]
     let rest := if last then Taking.none else .dropping
     (headerRefused (data ++ [d]) →
       s.laneTakes n last (dataByteSymbol d) =
        s.setLane n { discardedLane h .badHeader (s.lane n) with taking := rest }) ∧
     (¬headerRefused (data ++ [d]) → slot.valid = false →
       s.laneTakes n last (dataByteSymbol d) =
        s.setLane n { discardedLane h .noProfile (s.lane n) with taking := rest }) ∧
     (¬headerRefused (data ++ [d]) → slot.valid = true →
       s.laneTakes n last (dataByteSymbol d) = s.itemOpened n h slot.record rest)) := by
  intro h slot rest
  have checked := State.laneTakes_header (d := d) taking short ends
  exact ⟨fun refused => checked.trans (State.checkOpen_refused rest refused),
    fun good invalid => checked.trans (State.checkOpen_noProfile rest good invalid),
    fun good valid => checked.trans (State.checkOpen_opens rest good valid)⟩

/-- A data symbol of a lane's unit is what the lane takes. -/
theorem laneSymbol_taken (free : s.lrxFree = true) (empty : s.lrx.fifo = []) (parse : s.lrx.parse = .body u)
    (more : u.remaining = left + 1) (dest : u.dest = .lane n) :
    exec (.symbolArrival (dataByteSymbol d)) s =
      .next ((s.withUnit { u with remaining := left, dest := .lane n }).laneTakes n (left = 0) (dataByteSymbol d)) := by
  rw [exec_data free empty parse (isTag_dataByteSymbol d) more,
    State.takeBody_lane (u := { u with remaining := left }) dest, ← dest]

end

/-- Settles O6: by the unit's destination; a lane's unit by what the lane is taking. -/
theorem dataSymbolTakenByItsUnit : Obligations.DataSymbolTakenByItsUnit := by
  intro d s u left free empty parse more sym goesTo
  have unheld := State.lrxFree_hold free
  let v : CurrentUnit := { u with remaining := left }
  have taken : exec (.symbolArrival sym) s = .next (s.takeBody v sym) :=
    exec_data free empty parse (isTag_dataByteSymbol d) more
  refine ⟨fun dest => ?_, fun dest image => ⟨fun stray => ?_, fun n good lane goesOn => ?_⟩, fun n dest => ?_,
    fun request => ⟨fun dest goesOn => ?_, fun first dest => ⟨fun refused => ?_, fun places kind goesOn => ?_⟩⟩,
    fun q dest progress => ?_⟩
  · rw [taken, State.takeBody, show v.dest = .drop from dest]
    exact congrArg (fun dest => Host.Outcome.next (s.withUnit { v with dest := dest })) dest
  · rw [taken, State.takeBody_awaitLane (u := v) dest]
    exact congrArg Host.Outcome.next (State.takeLaneSymbol_stray (u := v) unheld image stray)
  · rw [taken, State.takeBody_awaitLane (u := v) dest]
    obtain ⟨opens, lines, closes, discards⟩ := State.takeLaneSymbol_byKind (u := v) unheld good lane goesOn
    exact ⟨fun kind idle boot => congrArg Host.Outcome.next (opens kind idle boot),
      fun kind state => congrArg Host.Outcome.next (lines kind state),
      fun kind => ⟨fun opened => congrArg Host.Outcome.next (closes kind opened),
        fun discard => congrArg Host.Outcome.next (discards kind discard)⟩⟩
  · intro l wIn rest ends
    have atLane : ∀ t, rest.laneTakes n (left = 0) sym = t → exec (.symbolArrival sym) s = .next t := fun t takes =>
      (laneSymbol_taken free empty parse more dest).trans (congrArg Host.Outcome.next takes)
    have goes : ∀ t, left ≠ 0 → rest.laneData n sym = t → exec (.symbolArrival sym) s = .next t :=
      fun t goesOn takes => atLane t ((if_neg goesOn).trans takes)
    have spelled : ∀ data : List DataByte, data.map dataByteSymbol ++ [sym] = (data ++ [d]).map dataByteSymbol :=
      fun data => (List.map_append (l₁ := data) (l₂ := [d])).symm
    refine ⟨fun idle => atLane _ (State.laneTakes_dropping (s := rest) (last := left = 0) idle sym),
      fun data taking short => ⟨fun few goesOn => goes _ goesOn ?_, fun last => ?_⟩,
      fun arrived prev taking => ⟨fun below goesOn => goes _ goesOn (State.laneData_pixel taking below),
        fun below last => atLane _ ((if_pos last).trans (State.laneTakes_short taking below)),
        fun full => atLane _ (State.laneTakes_lineEnds taking full),
        fun past => atLane _ (State.laneTakes_surplus (s := rest) (last := left = 0) taking past sym)⟩,
      fun data taking short opened => ?_⟩
    · rw [← spelled]
      exact State.laneData_header_more (s := rest) taking (by rwa [List.length_map]) sym
    · obtain ⟨refused, invalid, valid⟩ := State.laneTakes_headerEnds (s := rest) (d := d) taking short last
      exact ⟨fun bad => atLane _ (refused bad), fun good none => atLane _ (invalid good none),
        fun good slot => atLane _ (valid good slot)⟩
    · have counted := declaredCount_received (d := d) short l.lineCount
      refine ⟨fun few goesOn => goes _ goesOn ?_, fun last => ?_⟩
      · rw [← spelled]
        exact State.laneData_close_more (s := rest) taking (by rwa [List.length_map]) sym
      · have checked := State.laneTakes_close (s := rest) taking (by rwa [List.length_map]) opened (by rwa [List.length_map])
          sym
        rw [spelled] at checked
        exact ⟨fun good => atLane _ (checked.trans (congrArg (fun m => State.itemEnds n m rest) (if_pos (counted.mpr good)))),
          fun bad => atLane _ (checked.trans (congrArg (fun m => State.itemEnds n m rest) (if_neg (mt counted.mp bad))))⟩
  · rw [taken, State.takeBody_requestTag (u := v) dest goesOn]
    rfl
  · have held := State.presentRequest_held (s := s.withParse .watch)
      (h := ⟨v, [first, sym], decide (left = 0)⟩) ((State.refusesRequest_symbols _).mpr (refused.imp id fun reload =>
        ⟨reload.1, sym, rfl, (parityError_dataByteSymbol d).trans reload.2.1, (symValue_dataByteSymbol d).trans reload.2.2⟩))
    rw [taken, State.takeBody_requestKind (u := v) dest request]
    exact congrArg Host.Outcome.next held
  · have takes : (s.withParse .watch).refusesRequest [first, sym] = false := by
      rw [← Bool.not_eq_true, State.refusesRequest_symbols, not_or]
      refine ⟨places.not_ge, fun ⟨running, e, second, good, nine⟩ => ?_⟩
      obtain rfl : sym = e := Option.some.inj second
      rw [parityError_dataByteSymbol] at good
      rw [symValue_dataByteSymbol] at nine
      rcases kind with idle | bad | other
      · rw [show (s.withParse .watch).req.bootRunning = none from idle] at running
        exact absurd running (by decide)
      · rw [good] at bad
        exact absurd bad (by decide)
      · exact other nine
    have begun := State.presentRequest_takes (s := s.withParse .watch) (h := ⟨v, [first, sym], decide (left = 0)⟩) takes
    rw [taken, State.takeBody_requestKind (u := v) dest request]
    refine congrArg Host.Outcome.next (begun.trans ?_)
    exact if_neg (by simpa using goesOn)
  · intro full got goesOn
    rw [taken, State.takeBody_request (u := v) dest progress, if_neg goesOn,
      show v = { u with remaining := left, dest := .request } by rw [← dest]]
    rfl

end Sys2Proof.Machine
end

section
/-! SUPPORT. R137, R149 to R151: a request that fails its checks at its end, or is cut short by a tag (O25). -/

namespace Sys2Proof.Machine

variable {s : State}

/-! ## The checks (R150) -/

theorem requestKindOf_none {v : Byte} (unknown : v.toNat = 0 ∨ 9 < v.toNat) : requestKindOf v = none := by
  unfold requestKindOf
  split
  case h_10 => rfl
  all_goals omega

theorem requestKindOf_some {v : Byte} {len : Nat} (known : (v.toNat, len) ∈ requestLengths) :
    ∃ kind, requestKindOf v = some kind ∧ requestLength kind = len := by
  simp only [requestLengths, List.mem_cons, Prod.mk.injEq, List.not_mem_nil, or_false] at known
  have spelled : v = BitVec.ofNat 8 v.toNat := by simp
  rcases known with ⟨k, rfl⟩ | ⟨k, rfl⟩ | ⟨k, rfl⟩ | ⟨k, rfl⟩ | ⟨k, rfl⟩ | ⟨k, rfl⟩ | ⟨k, rfl⟩ | ⟨k, rfl⟩ | ⟨k, rfl⟩ <;>
    rw [spelled, k] <;> exact ⟨_, rfl, rfl⟩

theorem requestCheck_of_fails {q : RequestInProgress} {code : ReplyCode} (fails : requestFails q code) :
    requestCheck q = .error code := by
  have clean : ∀ syms : List Symbol, (∀ sym ∈ syms, parityError sym = false) → ¬ syms.any parityError = true :=
    fun syms good bad => by
      obtain ⟨sym, mem, wrong⟩ := List.any_eq_true.mp bad
      rw [good sym mem] at wrong
      exact absurd wrong (by decide)
  unfold requestCheck
  obtain ⟨rfl, short⟩ | ⟨rfl, long, bad⟩ | ⟨rfl, ⟨long, good⟩, unknown⟩ | ⟨rfl, ⟨long, good⟩, len, known, wrong⟩ |
    ⟨rfl, ⟨long, good⟩, known, whole, bad⟩ := fails
  · exact if_pos short
  · exact (if_neg (by omega)).trans (if_pos (List.any_eq_true.mpr bad))
  · rw [if_neg (by omega), if_neg (clean _ good),
      show requestKindOf (requestKindByte q) = none from requestKindOf_none unknown]
  · obtain ⟨kind, known, length⟩ := requestKindOf_some known
    rw [if_neg (by omega), if_neg (clean _ good), show requestKindOf (requestKindByte q) = some kind from known]
    exact if_pos (length ▸ wrong)
  · obtain ⟨kind, known, length⟩ := requestKindOf_some known
    rw [if_neg (by omega), if_neg (clean _ good), show requestKindOf (requestKindByte q) = some kind from known]
    exact (if_neg (by simp [length, whole])).trans (if_pos (List.any_eq_true.mpr bad))

/-! ## The end of a request that is refused (R142, R151) -/

theorem State.transitWritten_withLrx (copy : List Symbol) (cut : Bool) (v : Lrx) :
    (s.withLrx v).transitWritten copy cut = (s.transitWritten copy cut).withLrx v := by
  unfold State.transitWritten
  dsimp only
  change (if copy.length < 3 then _ else if copy.length ≤ 4096 - s.transit.length then _
    else if 3 ≤ 4096 - s.transit.length then _ else _) = _
  split_ifs <;> rfl

theorem State.transitWritten_inProgress (copy : List Symbol) (cut : Bool) (x : Option RequestInProgress) :
    (s.withReq { s.req with inProgress := x }).transitWritten copy cut =
      (s.transitWritten copy cut).withReq { (s.transitWritten copy cut).req with inProgress := x } := by
  unfold State.transitWritten
  dsimp only
  change (if copy.length < 3 then _ else if copy.length ≤ 4096 - s.transit.length then _
    else if 3 ≤ 4096 - s.transit.length then _ else _) = _
  split_ifs <;> rfl

theorem State.transitWritten_frame (copy : List Symbol) (cut : Bool) : TransitFrame s (s.transitWritten copy cut) :=
  State.writeCopySymbols_eq copy cut s ▸ TransitFrame.writeCopySymbols copy cut s

section
variable {q : RequestInProgress} {code : ReplyCode}

/-- What a refusal leaves does not depend on the parse state and the copy that stood. -/
theorem State.requestRefused_withLrx (copy : List Symbol) (cut : Bool) {v : Lrx}
    (link : ({ v with parse := .watch, copy := [], copyCut := false } : Lrx) =
      { s.lrx with parse := .watch, copy := [], copyCut := false }) :
    (s.withLrx v).requestRefused q code copy cut = s.requestRefused q code copy cut := by
  unfold State.requestRefused
  dsimp only
  rw [State.transitWritten_withLrx, State.withLrx_withLrx, State.withLrx_lrx, link]
  rfl

theorem State.requestRefused_inProgress (copy : List Symbol) (cut : Bool) (x : Option RequestInProgress) :
    (s.withReq { s.req with inProgress := x }).requestRefused q code copy cut = s.requestRefused q code copy cut := by
  unfold State.requestRefused
  dsimp only
  rw [State.transitWritten_inProgress]
  rfl

/-- R142, R151: the request in progress ends and is refused. -/
theorem State.requestEnd_refused (taken : s.req.inProgress = some q) (fails : requestFails q code)
    (parse : s.lrx.parse = .watch) : s.requestEnd = s.requestRefused q code s.lrx.copy s.lrx.copyCut := by
  have frame := State.transitWritten_frame (s := s) s.lrx.copy s.lrx.copyCut
  unfold State.requestEnd
  rw [taken]
  dsimp only
  rw [State.execute, requestCheck_of_fails fails]
  dsimp only
  rw [State.writeCopy, State.writeCopySymbols_eq]
  change (((s.withReq { s.req with inProgress := none }).transitWritten s.lrx.copy s.lrx.copyCut).withLrx
    { s.lrx with copy := [], copyCut := false }).reply q code [] = _
  rw [State.transitWritten_inProgress]
  have replies := frame.replies
  have address := frame.partAddress
  unfold State.requestRefused State.reply State.answer
  dsimp only
  generalize s.transitWritten s.lrx.copy s.lrx.copyCut = t at replies address ⊢
  rw [← replies, ← address, ← parse]
  rfl

end

/-- R142: a request taken with its end passed; the copy of a truncated broadcast one is marked. -/
theorem State.requestTaken_cut (u : CurrentUnit) (data : List Symbol) :
    (if data.length < lengthOf u.hi u.lo then (s.requestTaken u data).cutCopy u else s.requestTaken u data) =
      (s.requestTaken u data).withLrx
        { (s.requestTaken u data).lrx with
          copyCut := if u.cls = .broadcast then decide (data.length < lengthOf u.hi u.lo) else s.lrx.copyCut } := by
  unfold State.cutCopy
  by_cases broadcast : u.cls = .broadcast
  · rw [if_pos broadcast, if_pos broadcast]
    by_cases truncated : data.length < lengthOf u.hi u.lo
    · rw [if_pos truncated, decide_eq_true truncated]
    · rw [if_neg truncated, decide_eq_false truncated, State.requestTaken, if_pos broadcast, if_pos broadcast]
      rfl
  · rw [if_neg broadcast, if_neg broadcast, ite_self, State.requestTaken, if_neg broadcast, if_neg broadcast]
    rfl

/-- R149 to R151: a request presented with its end passed before its kind symbol. -/
theorem State.presentRequest_short {h : Held} (taken : s.refusesRequest h.data = false) (ended : h.ended = true)
    (short : h.data.length < 2) (none : h.unit.remaining = 0) :
    s.presentRequest h =
      ((s.withReq { s.req with owed := s.req.owed + 1 }).withLrx { s.lrx with hold := .none }).requestRefused
        { length := lengthOf h.unit.hi h.unit.lo, data := h.data, received := h.data.length } .badLength
        (if h.unit.cls = .broadcast then h.unit.tag :: h.unit.hi :: h.unit.lo :: h.data else s.lrx.copy)
        (if h.unit.cls = .broadcast then decide (h.data.length < lengthOf h.unit.hi h.unit.lo) else s.lrx.copyCut) := by
  rw [State.presentRequest_takes taken, if_pos ended, State.requestTaken_cut]
  have parse : (s.requestTaken h.unit h.data).lrx.parse = .watch := if_pos none
  let base := (s.withReq { s.req with owed := s.req.owed + 1 }).withLrx { s.lrx with hold := .none }
  let q : RequestInProgress :=
    { length := lengthOf h.unit.hi h.unit.lo, data := h.data, received := h.data.length }
  rw [State.requestEnd_refused (q := q) (code := .badLength)]
  · refine Eq.trans ?_ (State.requestRefused_inProgress (s := base) _ _ (some q))
    exact State.requestRefused_withLrx (s := base.withReq { base.req with inProgress := some q }) _ _ rfl
  · rfl
  · exact .inl ⟨rfl, short⟩
  · exact parse

/-! ## A request that ends before its kind symbol (R137, R149) -/

/-- R150, R151: a request that ends before its kind symbol is refused. -/
def State.shortRefused (u : CurrentUnit) (first : List Symbol) (s : State) : State :=
  (s.withReq { s.req with owed := s.req.owed + 1 }).requestRefused
    { length := lengthOf u.hi u.lo, data := first, received := first.length } .badLength
    (if u.cls = .broadcast then u.tag :: u.hi :: u.lo :: first else s.lrx.copy)
    (if u.cls = .broadcast then decide (first.length < lengthOf u.hi u.lo) else s.lrx.copyCut)

/-- R141: it is held while eight replies are queued or owed. -/
def State.shortHeld (u : CurrentUnit) (first waiting : List Symbol) (s : State) : State :=
  s.withLrx
    { s.lrx with
      parse := .watch
      fifo := waiting
      hold := some { unit := { u with remaining := 0 }, data := first, ended := true } }

section
variable {u : CurrentUnit} {first : List Symbol}

theorem State.finishUnit_awaitKind (early : Bool) (dest : u.dest = .awaitKind first) (kind : tagKind u.tag = 3) :
    s.finishUnit u early = (s.withParse .watch).presentRequest ⟨{ u with remaining := 0 }, first, true⟩ := by
  rw [State.finishUnit, dest]
  exact State.present_request kind

theorem State.refusesRequest_short (short : first.length < 2) :
    s.refusesRequest first = true ↔ 8 ≤ s.replies.length + s.req.owed := by
  rw [State.refusesRequest_symbols, List.getElem?_eq_none (by omega)]
  simp

theorem State.presentRequest_refuses (unheld : s.lrx.hold = none) (places : s.replies.length + s.req.owed < 8)
    (short : first.length < 2) :
    (s.withParse .watch).presentRequest ⟨{ u with remaining := 0 }, first, true⟩ = s.shortRefused u first := by
  have takes : (s.withParse .watch).refusesRequest first = false := by
    rw [← Bool.not_eq_true, State.refusesRequest_short short]
    exact places.not_ge
  rw [State.presentRequest_short (h := ⟨{ u with remaining := 0 }, first, true⟩) takes rfl short rfl]
  refine State.requestRefused_withLrx (s := s.withReq { s.req with owed := s.req.owed + 1 }) _ _ ?_
  rw [← unheld]
  rfl

theorem State.presentRequest_holds (empty : s.lrx.fifo = []) (full : 8 ≤ s.replies.length + s.req.owed)
    (short : first.length < 2) :
    (s.withParse .watch).presentRequest ⟨{ u with remaining := 0 }, first, true⟩ = s.shortHeld u first [] := by
  have refused : (s.withParse .watch).refusesRequest first = true := (State.refusesRequest_short short).mpr full
  rw [State.presentRequest_held (h := ⟨{ u with remaining := 0 }, first, true⟩) refused, State.shortHeld, ← empty]
  rfl

/-- R137: a tag ends a request before its kind symbol, and is then taken. -/
theorem State.tagInUnit_refuses {sym : Symbol} (unheld : s.lrx.hold = none) (places : s.replies.length + s.req.owed < 8)
    (short : first.length < 2) (dest : u.dest = .awaitKind first) (kind : tagKind u.tag = 3) :
    s.tagInUnit u sym = (s.shortRefused u first).beginsUnit sym := by
  refine State.tagInUnit_ends ?_ unheld
  rw [State.finishUnit_awaitKind true dest kind, State.presentRequest_refuses unheld places short]
  rfl

/-- R137, R141: the tag waits where the request that it ends is held (log 13). -/
theorem State.tagInUnit_holds {sym : Symbol} (empty : s.lrx.fifo = []) (full : 8 ≤ s.replies.length + s.req.owed)
    (short : first.length < 2) (dest : u.dest = .awaitKind first) (kind : tagKind u.tag = 3) :
    s.tagInUnit u sym = s.shortHeld u first [sym] := by
  rw [State.tagInUnit, State.finishUnit_awaitKind true dest kind, State.presentRequest_holds empty full short]
  rfl

end

/-! ## The end of a request in progress (R137, R149) -/

section
variable {u : CurrentUnit} {q : RequestInProgress} {code : ReplyCode}

/-- R149, R150: the last symbol of a request that fails its checks. -/
theorem State.takeBody_requestEnds {sym : Symbol} (dest : u.dest = .request) (last : u.remaining = 0)
    (taken : s.req.inProgress = some q) (fails : requestFails (recordSymbol q sym) code) :
    s.takeBody u sym =
      s.requestRefused (recordSymbol q sym) code
        (if u.cls = .broadcast ∧ ¬262 ≤ s.lrx.copy.length then s.lrx.copy ++ [sym] else s.lrx.copy)
        (s.lrx.copyCut || decide (u.cls = .broadcast ∧ 262 ≤ s.lrx.copy.length)) := by
  rw [State.takeBody_request dest taken, if_pos last, State.finishUnit, dest]
  dsimp only
  rw [if_neg (by decide), State.requestEnd_refused (q := recordSymbol q sym) (code := code)]
  · refine Eq.trans ?_ (State.requestRefused_inProgress (s := s) _ _ (some (recordSymbol q sym)))
    exact State.requestRefused_withLrx (s := s.withReq { s.req with inProgress := some (recordSymbol q sym) }) _ _ rfl
  · rfl
  · exact fails
  · rfl

/-- R137, R142: a tag cuts a request in progress short. -/
theorem State.finishUnit_requestCut (dest : u.dest = .request) (taken : s.req.inProgress = some q)
    (fails : requestFails q code) :
    s.finishUnit u true = s.requestRefused q code s.lrx.copy (s.lrx.copyCut || decide (u.cls = .broadcast)) := by
  have cut : (s.withParse .watch).cutCopy u = s.withLrx
      { s.lrx with parse := .watch, copyCut := s.lrx.copyCut || decide (u.cls = .broadcast) } := by
    unfold State.cutCopy
    by_cases broadcast : u.cls = .broadcast
    · rw [if_pos broadcast, decide_eq_true broadcast, Bool.or_true]
      rfl
    · rw [if_neg broadcast, decide_eq_false broadcast, Bool.or_false]
      rfl
  rw [State.finishUnit, dest]
  dsimp only
  rw [if_pos rfl, cut, State.requestEnd_refused (q := q) (code := code)]
  · exact State.requestRefused_withLrx _ _ rfl
  · exact taken
  · exact fails
  · rfl

end

/-- Settles O25: a request in progress, by its last symbol or by a tag; then one that ends before its kind symbol. -/
theorem requestRefusedAtItsEnd : Obligations.RequestRefusedAtItsEnd := by
  intro sym s free empty
  have unheld := State.lrxFree_hold free
  have taken := exec_arrival (sym := sym) free empty
  refine ⟨fun u q code parse dest progress => ?_, ?_⟩
  · refine ⟨fun data last fails => ?_, fun tag fails => ?_⟩
    · rw [exec_data free empty parse data (left := 0) last]
      exact congrArg Host.Outcome.next (State.takeBody_requestEnds (u := { u with remaining := 0 }) dest rfl progress fails)
    · rw [taken, State.takeSymbol_tag_body tag parse]
      refine congrArg Host.Outcome.next (State.tagInUnit_ends ?_ unheld)
      rw [State.finishUnit_requestCut dest progress fails]
      rfl
  · intro refused heldWith
    refine ⟨fun cls tag hi header own kind data good none => ?_,
      fun u parse kind => ⟨fun dest data last => ?_, fun first dest short tag => ⟨fun places => ?_, fun full => ?_⟩⟩⟩
    · have passed : cls ≠ .transit := by rintro rfl; simp at own
      have await : firstDest cls tag = .awaitKind [] := by
        rw [firstDest, if_neg (by rintro rfl; simp at own), if_pos (.inr kind)]
      rw [taken, State.takeSymbol_data_header data header, State.takeLength_second good, State.lengthKnown_passed passed,
        if_pos none, await, State.finishUnit_awaitKind (u := ⟨cls, tag, hi, sym, 0, .awaitKind []⟩) false rfl kind]
      exact ⟨fun places => congrArg Host.Outcome.next (State.presentRequest_refuses unheld places (by decide)),
        fun full => congrArg Host.Outcome.next (State.presentRequest_holds empty full (by decide))⟩
    · let v : CurrentUnit := { u with remaining := 0, dest := .awaitKind [sym] }
      have ends : s.takeBody { u with remaining := 0 } sym = s.finishUnit v false := by
        unfold State.takeBody
        rw [dest]
        rfl
      rw [exec_data free empty parse data (left := 0) last, ends, State.finishUnit_awaitKind (u := v) false rfl kind]
      exact ⟨fun places => congrArg Host.Outcome.next (State.presentRequest_refuses unheld places (Nat.one_lt_two)),
        fun full => congrArg Host.Outcome.next (State.presentRequest_holds empty full (Nat.one_lt_two))⟩
    · rw [taken, State.takeSymbol_tag_body tag parse, State.tagInUnit_refuses unheld places short dest kind]
      rfl
    · rw [taken, State.takeSymbol_tag_body tag parse, State.tagInUnit_holds empty full short dest kind]
      rfl

end Sys2Proof.Machine
end

section
/-! SUPPORT. R141, R143: the held unit presented again, and the symbols that wait behind it (O21). -/

namespace Sys2Proof.Machine

variable {s : State} {n : Fin 4}

/-! ## Symbols that wait (R143) -/

/-- The state with `w` waiting in the receive FIFO. -/
def State.waiting (w : List Symbol) (s : State) : State := s.withLrx { s.lrx with fifo := w }

theorem State.waiting_self {w : List Symbol} (waits : s.lrx.fifo = w) : s.waiting w = s := by
  rw [State.waiting, ← waits]
  rfl

/-- LRX is inside a unit of which `k` data symbols are to come, none of them a header symbol of its own. -/
structure InUnit (k : Nat) (s : State) : Prop where
  parse : ∃ u : CurrentUnit, s.lrx.parse = .body u ∧ u.remaining = k ∧
    (u.dest = .drop ∨ (∃ n, u.dest = .lane n) ∨ u.dest = .request ∧ s.req.inProgress ≠ none)
  hold : s.lrx.hold = none
  fifo : s.lrx.fifo = []
  resetLine : s.resetLine = false
  startUp : s.startUp = false

theorem InUnit.free {k : Nat} (h : InUnit k s) (w : List Symbol) : (s.waiting w).lrxFree = true := by
  simp [State.lrxFree, State.waiting, h.hold, h.resetLine, h.startUp]

/-- R136: a data symbol before the unit's last is taken alike whatever waits behind it. -/
theorem InUnit.step {k : Nat} (h : InUnit (k + 2) s) {sym : Symbol} (data : isTag sym = false) :
    InUnit (k + 1) (s.takeSymbol sym) ∧ ∀ w, (s.waiting w).takeSymbol sym = (s.takeSymbol sym).waiting w := by
  obtain ⟨u, parse, more, dest⟩ := h.parse
  have taken : ∀ w, (s.waiting w).takeSymbol sym = (s.waiting w).takeBody { u with remaining := k + 1 } sym := fun w => by
    rw [State.takeSymbol_data_body (s := s.waiting w) data parse, more]
    rfl
  have alone := taken []
  rw [State.waiting_self h.fifo] at alone
  let v : CurrentUnit := { u with remaining := k + 1 }
  have unit : ∀ w, (s.waiting w).withUnit v = (s.withUnit v).waiting w := fun w => rfl
  have inUnit : InUnit (k + 1) (s.withUnit v) := ⟨⟨v, rfl, rfl, dest⟩, h.hold, h.fifo, h.resetLine, h.startUp⟩
  rcases dest with dest | ⟨n, dest⟩ | ⟨dest, progress⟩
  · have drops : ∀ t : State, t.takeBody v sym = t.withUnit v := fun t => by
      unfold State.takeBody
      rw [show v.dest = .drop from dest]
    rw [alone, drops]
    exact ⟨inUnit, fun w => by rw [taken, drops, unit]⟩
  · have lane : ∀ t : State, t.takeBody v sym = (t.withUnit v).laneData n sym := fun t =>
      (State.takeBody_lane (u := v) dest).trans (if_neg (Nat.succ_ne_zero k))
    have frame := LaneFrame.laneData n (s.withUnit v) sym
    rw [alone, lane]
    refine ⟨⟨?_, ?_, ?_, ?_, ?_⟩, fun w => ?_⟩
    · rw [frame.lrx]
      exact ⟨v, rfl, rfl, .inr (.inl ⟨n, dest⟩)⟩
    · rw [frame.lrx]
      exact h.hold
    · rw [frame.lrx]
      exact h.fifo
    · exact frame.resetLine.trans h.resetLine
    · exact frame.startUp.trans h.startUp
    · rw [taken, lane, unit, State.waiting, OffLink.laneData n sym, State.waiting, frame.lrx]
  · obtain ⟨q, taking⟩ := Option.ne_none_iff_exists'.mp progress
    have records : ∀ w, (s.waiting w).takeBody v sym = ((s.waiting w).withUnit v).requestRecords v q sym := fun w =>
      (State.takeBody_request (s := s.waiting w) (u := v) dest taking sym).trans (if_neg (Nat.succ_ne_zero k))
    have aloneRecords := records []
    rw [State.waiting_self h.fifo] at aloneRecords
    rw [alone, aloneRecords]
    refine ⟨⟨⟨v, rfl, rfl, .inr (.inr ⟨dest, nofun⟩)⟩, h.hold, h.fifo, h.resetLine, h.startUp⟩, fun w => ?_⟩
    rw [taken, records]
    rfl

/-- R143: the symbols that wait, up to the unit's end, are taken as if they arrived on a free link. -/
theorem InUnit.drain {syms : List Symbol} (h : InUnit syms.length s) (some : syms ≠ [])
    (data : ∀ sym ∈ syms, isTag sym = false) : (s.waiting syms).drain = s.arriveAll syms := by
  change (s.waiting syms).drainFifo syms.length = _
  induction syms generalizing s with
  | nil => exact absurd rfl some
  | cons sym rest ih =>
    have first : (s.waiting (sym :: rest)).drainFifo (rest.length + 1) =
        ((s.waiting rest).takeSymbol sym).drainFifo rest.length := if_pos (h.free _)
    have arrives : s.arrive sym = s.takeSymbol sym := by
      have free := h.free []
      rw [State.waiting_self h.fifo] at free
      exact s.arrive_of_free sym free h.fifo
    rw [List.length_cons, first, State.arriveAll_cons, arrives]
    match rest with
    | [] =>
      rw [State.waiting_self h.fifo]
      rfl
    | next :: others =>
      obtain ⟨goesOn, moves⟩ := h.step (data sym List.mem_cons_self)
      rw [moves]
      exact ih goesOn nofun fun sym' mem => data sym' (List.mem_cons_of_mem _ mem)

/-- R143: with nothing waiting, or with LRX not free, nothing is taken. -/
theorem State.drain_empty (empty : s.lrx.fifo = []) : s.drain = s := by
  rw [State.drain, empty]
  rfl

theorem State.drain_blocked (blocked : s.lrxFree = false) : s.drain = s := by
  unfold State.drain
  cases s.lrx.fifo.length with
  | zero => rfl
  | succ k => exact if_neg (by rw [blocked]; decide)

theorem State.lrxFree_held {h : Held} (held : s.lrx.hold = some h) : s.lrxFree = false := by
  rw [State.lrxFree, held]
  rfl

/-! ## The held unit and the same unit on a free link (R2, R141) -/

/-- R140: the lane symbol of an own image unit presents the unit. -/
theorem State.laneSymbol_presents (cls : UnitClass) (tag hi lo : Symbol) (k : Nat) (idle : s.linkIdle) {d : DataByte}
    (good : d.bad = false) (small : d.value.toNat ≤ 3) :
    (s.parsing (.body ⟨cls, tag, hi, lo, k + 1, .awaitLane⟩) [] false).takeSymbol (dataByteSymbol d) =
      s.present ⟨⟨cls, tag, hi, lo, k, .awaitLane⟩, [dataByteSymbol d], decide (k = 0)⟩ := by
  have parse : ∀ p, (s.parsing p [] false).withParse .watch = s := fun p => (s.parsing_of_linkIdle idle).symm
  refine (State.takeSymbol_data_body (u := ⟨cls, tag, hi, lo, k + 1, .awaitLane⟩) (isTag_dataByteSymbol d) rfl).trans ?_
  refine (State.takeBody_awaitLane (u := ⟨cls, tag, hi, lo, k, .awaitLane⟩) rfl _).trans ?_
  unfold State.takeLaneSymbol
  rw [parityError_dataByteSymbol, symValue_dataByteSymbol, good, Bool.false_or, if_neg (by simp; omega), parse]

/-- R2, R140: an image unit on a free link is presented with its lane symbol, and its further symbols follow. -/
theorem State.arriveImage_presents {kind : BitVec 3} (image : imageKind kind) (idle : s.linkIdle)
    (address : s.partAddress ≠ 31) {u : ImageUnit} (whole : wholeImage u) {d : DataByte} {ds : List DataByte}
    (symbols : u.data = d :: ds) (good : d.bad = false) (lane : d.value.toNat = n.val) :
    s.arriveImage kind u =
      (s.present (heldImage kind s.partAddress u.length (dataByteSymbol d) ds.length)).arriveAll
        (ds.map dataByteSymbol) := by
  have size : u.length.toNat = ds.length + 1 := by rw [← whole, symbols]; rfl
  have some : u.length ≠ 0 := by rintro e; rw [e] at size; simp at size
  rw [State.arriveImage, imageSymbols, State.arrive_header _ _ _ _ idle, classify_image image _ address,
    State.lengthKnown_own _ _ _ (.inl rfl) some, symbols]
  simp only [tagKind_tagSymbol, ne_eq, imageKind_ne_request image, not_false_eq_true, and_true, if_true, List.map_cons,
    State.arriveAll_cons]
  rw [State.arrive_parsing s _ _ _ _ idle.2, size, State.laneSymbol_presents _ _ _ _ ds.length idle good (by omega)]
  rfl

theorem State.tagSymbol_awaits (cls : UnitClass) (tag hi lo : Symbol) (k : Nat) (d : DataByte) :
    (s.parsing (.body ⟨cls, tag, hi, lo, k + 2, .awaitKind []⟩) [] false).takeSymbol (dataByteSymbol d) =
      s.parsing (.body ⟨cls, tag, hi, lo, k + 1, .awaitKind [dataByteSymbol d]⟩) [] false :=
  (State.takeSymbol_data_body (u := ⟨cls, tag, hi, lo, k + 2, .awaitKind []⟩) (isTag_dataByteSymbol d) rfl).trans
    (State.takeBody_requestTag (u := ⟨cls, tag, hi, lo, k + 1, .awaitKind []⟩) rfl (Nat.succ_ne_zero k) _)

/-- R140: the kind symbol of a request presents it. -/
theorem State.kindSymbol_presents (cls : UnitClass) (tag hi lo first : Symbol) (k : Nat) (d : DataByte) (idle : s.linkIdle)
    (request : tagKind tag = 3) :
    (s.parsing (.body ⟨cls, tag, hi, lo, k + 1, .awaitKind [first]⟩) [] false).takeSymbol (dataByteSymbol d) =
      s.present ⟨⟨cls, tag, hi, lo, k, .awaitKind [first]⟩, [first, dataByteSymbol d], decide (k = 0)⟩ := by
  have parse : ∀ p, (s.parsing p [] false).withParse .watch = s := fun p => (s.parsing_of_linkIdle idle).symm
  refine (State.takeSymbol_data_body (u := ⟨cls, tag, hi, lo, k + 1, .awaitKind [first]⟩)
    (isTag_dataByteSymbol d) rfl).trans ?_
  refine (State.takeBody_requestKind (u := ⟨cls, tag, hi, lo, k, .awaitKind [first]⟩) rfl request _).trans ?_
  rw [parse]
  exact (State.present_request (h := ⟨⟨cls, tag, hi, lo, k, .awaitKind [first]⟩, _, _⟩) request).symm

/-- R140, R149: a request on a free link is presented with its kind symbol, and its further symbols follow. -/
theorem State.arriveRequest_presents {kind : Byte} {r : Request} (idle : s.linkIdle) (whole : wholeRequest r) :
    s.arriveRequest kind r = (s.present (s.heldRequest kind r)).arriveAll (r.operands.map dataByteSymbol) := by
  have size : r.length.toNat = r.operands.length + 2 := whole.symm
  have some : r.length ≠ 0 := by rintro e; rw [e] at size; simp at size
  rw [State.arriveRequest, requestUnitSymbols_eq, State.arrive_header _ _ _ _ idle, classify_request]
  generalize made : tagSymbol kindRequest (if r.broadcast then broadcastAddress else s.partAddress) = tag
  have request : tagKind tag = kindRequest := by rw [← made]; simp
  generalize class_ : (if s.broadcasts r then UnitClass.broadcast else .own) = cls
  have own : cls = .own ∨ cls = .broadcast := by rw [← class_]; split <;> simp
  rw [State.lengthKnown_own cls tag r.length own some]
  simp only [request, ne_eq, not_true, and_false, if_false]
  have held : s.heldRequest kind r =
      { unit := ⟨cls, tag, hiSymbol r.length, loSymbol r.length, r.operands.length, .awaitKind [dataByteSymbol r.tag]⟩
        data := [dataByteSymbol r.tag, dataByteSymbol ⟨kind, r.kindBad⟩]
        ended := decide (r.operands.length = 0) } := by
    rw [State.heldRequest, ← class_, ← made]
    simp only [List.length_eq_zero_iff]
    rfl
  rw [State.arriveAll_cons, State.arrive_parsing s _ _ _ _ idle.2]
  rw [size, State.tagSymbol_awaits, State.arriveAll_cons, State.arrive_parsing s _ _ _ _ idle.2,
    State.kindSymbol_presents _ _ _ _ _ _ _ idle request, held]

end Sys2Proof.Machine
end

section
/-! SUPPORT. R141: the held unit presented again has the effect of the whole unit on a free link; and its effect where its
further symbols have not arrived (O21). -/

namespace Sys2Proof.Machine

variable {s : State} {n : Fin 4}

/-! ## The held unit against the free link -/

/-- The link of a unit that is held as `h` with `w` waiting, and nothing else on LRX. -/
theorem State.withHold_heldLink {h : Held} {w : List Symbol} (link : s.lrx = { fifo := w, hold := some h }) :
    s.withHold none = (s.withLrx {}).waiting w := by
  rw [State.withHold, link]
  rfl

/-- An operation that neither reads nor writes LRX moves past the symbols that wait. -/
theorem OffLink.waiting {f : State → State} (off : OffLink f) (frame : (f s).lrx = s.lrx) (w : List Symbol) :
    f (s.waiting w) = (f s).waiting w := by
  rw [State.waiting, off, State.waiting, frame]

theorem State.acceptImage_frame (h : Held) (sym : Symbol) :
    LaneFrame n ((s.withHold none).withUnit { h.unit with dest := .lane n }) (s.acceptImage n h sym) := by
  unfold State.acceptImage
  dsimp only
  split
  · exact (LaneFrame.beginImage n _ _ _).trans (LaneFrame.laneUnitEnd n _)
  · exact LaneFrame.beginImage n _ _ _

theorem State.acceptImage_waiting {h : Held} {w : List Symbol} (link : s.lrx = { fifo := w, hold := some h }) (sym : Symbol) :
    s.acceptImage n h sym = ((s.withLrx {}).acceptImage n h sym).waiting w := by
  unfold State.acceptImage
  rw [State.withHold_heldLink link]
  dsimp only
  let t := ((s.withLrx {}).withHold none).withUnit { h.unit with dest := .lane n }
  have begun : (t.waiting w).beginImage (tagKind h.unit.tag) n sym =
      (t.beginImage (tagKind h.unit.tag) n sym).waiting w :=
    OffLink.waiting (OffLink.beginImage n (tagKind h.unit.tag) sym) (LaneFrame.beginImage n t _ sym).lrx w
  change (if h.ended = true then ((t.waiting w).beginImage (tagKind h.unit.tag) n sym).laneUnitEnd n
    else (t.waiting w).beginImage (tagKind h.unit.tag) n sym) = _
  rw [begun]
  split
  · exact OffLink.waiting (OffLink.laneUnitEnd n) (LaneFrame.laneUnitEnd n _).lrx w
  · rfl

/-- A unit that goes on, with nothing else on LRX. -/
theorem InUnit.of_withUnit {t : State} {u : CurrentUnit} (lrx : s.lrx = ((t.withLrx {}).withUnit u).lrx)
    (more : u.remaining ≠ 0)
    (dest : u.dest = .drop ∨ (∃ n, u.dest = .lane n) ∨ u.dest = .request ∧ s.req.inProgress ≠ none)
    (resetLine : s.resetLine = false) (startUp : s.startUp = false) : InUnit u.remaining s := by
  rw [State.withUnit, if_neg more] at lrx
  exact ⟨⟨u, by rw [lrx]; rfl, rfl, dest⟩, by rw [lrx]; rfl, by rw [lrx]; rfl, resetLine, startUp⟩

/-- R141, R143: a held unit whose further symbols wait is taken with them. -/
theorem exec_presentHeld_waiting {h : Held} {w : List Symbol} {t : State} (held : s.lrx.hold = some h)
    (present : s.present h = t.waiting w) (data : ∀ sym ∈ w, isTag sym = false) (none : t.lrx.fifo = [])
    (goesOn : w ≠ [] → InUnit w.length t) : exec .presentHeldUnit s = .next (t.arriveAll w) := by
  refine congrArg Host.Outcome.next ?_
  have presented : s.presentHeld = (t.waiting w).drain := by
    unfold State.presentHeld
    rw [held, ← present]
  rw [presented]
  by_cases ended : w = []
  · subst ended
    rw [State.waiting_self none, State.drain_empty none]
    rfl
  · exact (goesOn ended).drain ended data

theorem isTag_dataSymbols (ds : List DataByte) : ∀ sym ∈ ds.map dataByteSymbol, isTag sym = false := by
  intro sym mem
  obtain ⟨d, -, rfl⟩ := List.mem_map.mp mem
  exact isTag_dataByteSymbol d

/-- R2, R12, R14: what an IDLE lane makes of a held unit does not touch the symbols that wait, and the unit goes on. -/
theorem presentImage_idle {h : Held} {w : List Symbol} {sym : Symbol} (link : s.lrx = { fifo := w, hold := some h })
    (idle : (s.lane n).state = .idle) (boot : tagKind h.unit.tag = 0 → s.req.bootRunning = none) :
    s.presentImage n h sym = ((s.withLrx {}).presentImage n h sym).waiting w ∧
      ∃ dest, (dest = Dest.drop ∨ ∃ m, dest = .lane m) ∧
        ((s.withLrx {}).presentImage n h sym).lrx = ((s.withLrx {}).withUnit { h.unit with dest := dest }).lrx ∧
        ((s.withLrx {}).presentImage n h sym).resetLine = s.resetLine ∧
        ((s.withLrx {}).presentImage n h sym).startUp = s.startUp := by
  by_cases kind : tagKind h.unit.tag = 0
  · have taken : ∀ t : State, t.req = s.req → t.lane n = s.lane n → t.presentImage n h sym = t.acceptImage n h sym :=
      fun t req lane => State.presentImage_taken (h := h)
        (fun _ => ⟨by rw [req]; exact boot kind, by rw [lane]; exact idle⟩) fun other => absurd kind other
    rw [taken s rfl rfl, taken (s.withLrx {}) rfl rfl]
    have frame := State.acceptImage_frame (s := s.withLrx {}) (n := n) h sym
    exact ⟨State.acceptImage_waiting link sym, _, .inr ⟨n, rfl⟩, frame.lrx, frame.resetLine, frame.startUp⟩
  · rw [State.presentImage_stray kind idle, State.presentImage_stray (s := s.withLrx {}) kind idle,
      State.withHold_heldLink link]
    exact ⟨rfl, _, .inl rfl, rfl, rfl, rfl⟩

/-- R2, R141: an image unit held for an IDLE lane, its further symbols waiting. -/
theorem presentHeld_image {u : ImageUnit} {d : DataByte} {ds : List DataByte} {c : Instr} {kind : BitVec 3}
    (unit : (c, kind) ∈ [(Instr.itemOpen u, (0 : BitVec 3)), (.line u, 1), (.itemClose u, 2)]) (reset : s.resetLine = false)
    (startUp : s.startUp = false) (address : s.partAddress ≠ 31) (whole : wholeImage u) (symbols : u.data = d :: ds)
    (good : d.bad = false) (lane : d.value.toNat = n.val)
    (link : s.lrx =
      { fifo := ds.map dataByteSymbol
        hold := some (heldImage kind s.partAddress u.length (dataByteSymbol d) ds.length) })
    (idle : (s.lane n).state = .idle) (boot : kind = 0 → s.req.bootRunning = none) :
    exec .presentHeldUnit s = exec c (s.withLrx {}) := by
  obtain ⟨image, run⟩ := exec_image unit (s.withLrx {})
  let h := heldImage kind s.partAddress u.length (dataByteSymbol d) ds.length
  have tag : tagKind h.unit.tag = kind := tagKind_tagSymbol kind s.partAddress
  have request : tagKind h.unit.tag ≠ 3 := by rw [tag]; exact imageKind_ne_request image
  have atLane : ∀ t : State, t.present h = t.presentImage n h (dataByteSymbol d) := fun t =>
    State.present_laneSymbol _ request lane
  obtain ⟨moves, dest, takes, lrx, line, booting⟩ :=
    presentImage_idle (sym := dataByteSymbol d) link idle fun open_ => boot (tag.symm.trans open_)
  rw [run, State.arriveImage_presents (s := s.withLrx {}) image ⟨rfl, reset, startUp⟩ address whole symbols good lane]
  refine exec_presentHeld_waiting (h := h) (by rw [link]) ?_ (isTag_dataSymbols ds) ?_ fun some => ?_
  · exact (atLane s).trans (moves.trans (congrArg _ (atLane (s.withLrx {})).symm))
  · exact (congrArg (fun t : State => t.lrx.fifo) (atLane (s.withLrx {}))).trans (congrArg Lrx.fifo lrx)
  · have goesOn : ds.length ≠ 0 := by simpa using some
    rw [List.length_map]
    refine (atLane (s.withLrx {})).symm ▸ ?_
    exact InUnit.of_withUnit lrx goesOn (takes.imp id .inl) (line.trans reset) (booting.trans startUp)

/-- R149: what a request that the Request Unit takes leaves does not touch the symbols that wait. -/
theorem State.requestTaken_waiting {h : Held} {w : List Symbol} (link : s.lrx = { fifo := w, hold := some h })
    (u : CurrentUnit) (data : List Symbol) : s.requestTaken u data = ((s.withLrx {}).requestTaken u data).waiting w := by
  unfold State.requestTaken
  rw [link]
  rfl

/-- R141, R149: a request held with its tag and kind symbols, its further symbols waiting. -/
theorem presentHeld_request {r : Request} {c : Instr} {kind : Byte}
    (unit : (c, kind) ∈
      [(Instr.loadProfile r, 1), (.readProfile r, 2), (.loadTone r, 3), (.readTone r, 4), (.loadTimebase r, 5),
        (.readStatus r, 6), (.abortLane r, 7), (.restartPart r, 8), (.reloadBoot r, 9)])
    (takes : (s.withLrx {}).takesRequest kind r) (whole : wholeRequest r)
    (link : s.lrx = { fifo := r.operands.map dataByteSymbol, hold := some (s.heldRequest kind r) }) :
    exec .presentHeldUnit s = exec c (s.withLrx {}) := by
  obtain ⟨idle, progress, places, reload⟩ := takes
  let h := s.heldRequest kind r
  let t := s.withLrx {}
  have request : tagKind h.unit.tag = 3 := tagKind_tagSymbol 3 _
  have free : s.refusesRequest h.data = false := by
    rw [← Bool.not_eq_true]
    intro refused
    rcases (State.refusesRequest_iff r.tag r.kindBad).mp refused with full | ⟨nine, good, running⟩
    · exact absurd places full.not_gt
    · exact reload ⟨running, nine, good⟩
  have moves := State.requestTaken_waiting link h.unit h.data
  have present : ∀ v : State, v.replies = s.replies → v.req = s.req → v.present h =
      if r.operands = [] then
        (if h.data.length < lengthOf h.unit.hi h.unit.lo then (v.requestTaken h.unit h.data).cutCopy h.unit
        else v.requestTaken h.unit h.data).requestEnd
      else v.requestTaken h.unit h.data := fun v replies req => by
    have taken : v.refusesRequest h.data = false := by
      rw [State.refusesRequest, replies, req]
      exact free
    rw [State.present_request request, State.presentRequest_takes taken]
    simp only [h, State.heldRequest, decide_eq_true_eq]
  have empty : (t.present h).lrx.fifo = [] := by
    have within : LinkWithin 0 t := .of_reset rfl progress
    exact List.length_eq_zero_iff.mp (Nat.le_zero.mp (within.present (held := h) (Nat.le_refl 2)).fifo)
  rw [exec_request unit, State.arriveRequest_presents (s := s.withLrx {}) idle whole]
  refine exec_presentHeld_waiting (h := h) (by rw [link]) ?_ (isTag_dataSymbols r.operands) empty fun some => ?_
  · by_cases ended : r.operands = []
    · rw [ended] at moves
      have alone : s.requestTaken h.unit h.data = t.requestTaken h.unit h.data := moves.trans (State.waiting_self rfl)
      have same : s.present h = t.present h := by
        rw [present s rfl rfl, present t rfl rfl, alone]
      rw [ended]
      exact same.trans (State.waiting_self empty).symm
    · have taken : t.present h = t.requestTaken h.unit h.data := (present t rfl rfl).trans (if_neg ended)
      refine ((present s rfl rfl).trans (if_neg ended)).trans (moves.trans ?_)
      exact congrArg _ taken.symm
  · have goesOn : r.operands ≠ [] := by simpa using some
    have taken : t.present h = t.requestTaken h.unit h.data := (present t rfl rfl).trans (if_neg goesOn)
    rw [List.length_map]
    refine taken.symm ▸ ?_
    have more : r.operands.length ≠ 0 := by simpa using goesOn
    obtain ⟨-, resetLine, startUp⟩ := idle
    exact ⟨⟨{ h.unit with dest := .request }, if_neg more, rfl, .inr (.inr ⟨rfl, nofun⟩)⟩, rfl, rfl, resetLine, startUp⟩

end Sys2Proof.Machine
end

section
/-! O21: the held unit presented again. -/

namespace Sys2Proof.Machine

variable {s : State} {n : Fin 4}

theorem exec_presentHeld {h : Held} (held : s.lrx.hold = some h) :
    exec .presentHeldUnit s = .next (s.present h).drain := by
  refine congrArg Host.Outcome.next ?_
  unfold State.presentHeld
  rw [held]

theorem State.withHold_self {h : Held} (held : s.lrx.hold = some h) : s.withHold (some h) = s := by
  rw [State.withHold, ← held]
  rfl

/-- R141: a held unit that is refused stays held. -/
theorem exec_presentHeld_refused {h : Held} (held : s.lrx.hold = some h) (refused : s.present h = s.withHold (some h)) :
    exec .presentHeldUnit s = .next s := by
  rw [exec_presentHeld held, refused, State.withHold_self held, State.drain_blocked (State.lrxFree_held held)]

/-- R3, R5: a header that ends with its lane symbol is refused, every field of it read as 0. -/
theorem State.laneUnitEnd_laneSymbol {sym : Symbol} {l : Lane} :
    (s.setLane n { l with taking := .header [sym] }).laneUnitEnd n =
      s.setLane n (discardedLane (receivedHeader []) .badHeader l) := by
  have short : badHeader [sym] (receivedHeader []) = true := rfl
  have none : headerOf [sym] = receivedHeader [] := rfl
  unfold State.laneUnitEnd
  simp only [State.setLane_lane_same, State.checkOpen, none, short, if_true, State.setLane_setLane]
  rfl

/-- R2: an ITEM OPEN that an IDLE lane takes is in its header, or is refused where its end has passed. -/
theorem State.acceptImage_open {h : Held} (sym : Symbol) (kind : tagKind h.unit.tag = 0) :
    (h.ended = false → s.acceptImage n h sym =
      ((s.withHold none).withUnit { h.unit with dest := .lane n }).setLane n { s.lane n with taking := .header [sym] }) ∧
    (h.ended = true → s.acceptImage n h sym =
      ((s.withHold none).withUnit { h.unit with dest := .lane n }).setLane n
        (discardedLane (receivedHeader []) .badHeader (s.lane n))) := by
  let t := (s.withHold none).withUnit { h.unit with dest := .lane n }
  have begun : t.beginImage (tagKind h.unit.tag) n sym = t.setLane n { s.lane n with taking := .header [sym] } := by
    rw [kind]
    exact State.beginImage_open sym
  refine ⟨fun goesOn => ?_, fun ended => ?_⟩
  · exact (if_neg (by rw [goesOn]; decide)).trans begun
  · exact (if_pos ended).trans ((congrArg (State.laneUnitEnd n) begun).trans State.laneUnitEnd_laneSymbol)

/-- Settles O21: a refused unit stays held; one that is taken has the effect of the whole unit where its symbols wait
(`presentHeld_image`, `presentHeld_request`), and otherwise that of its symbols so far. -/
theorem heldUnitPresentedAgain : Obligations.HeldUnitPresentedAgain := by
  intro s
  refine ⟨fun none => congrArg Host.Outcome.next (State.presentHeld_none none), ?_, ?_, ?_, ?_⟩
  · intro n u d ds c kind unit reset startUp address whole symbols good lane _ link idle boot
    exact presentHeld_image unit reset startUp address whole symbols good lane link idle boot
  · intro r c kind unit takes whole _ link
    exact presentHeld_request unit takes whole link
  · intro h sym n held data lane kind
    have atLane : s.present h = s.presentImage n h sym := State.present_image data kind lane
    refine ⟨fun refused => ?_, fun other idle => ?_, fun open_ idle boot => ?_⟩
    · exact exec_presentHeld_refused held (atLane.trans (State.presentImage_held refused))
    · rw [exec_presentHeld held, atLane, State.presentImage_stray other idle]
      rfl
    · have taken : s.presentImage n h sym = s.acceptImage n h sym :=
        State.presentImage_taken (fun _ => ⟨boot, idle⟩) (absurd open_)
      obtain ⟨goesOn, ended⟩ := State.acceptImage_open (s := s) (n := n) sym open_
      rw [exec_presentHeld held, atLane, taken]
      exact ⟨fun more => congrArg (Host.Outcome.next ·.drain) (goesOn more), fun last =>
        congrArg (Host.Outcome.next ·.drain) (ended last)⟩
  · intro h held request
    have toUnit : s.present h = s.presentRequest h := State.present_request request
    refine ⟨fun refused => ?_, fun places kind => ?_⟩
    · exact exec_presentHeld_refused held
        (toUnit.trans (State.presentRequest_held ((State.refusesRequest_symbols h.data).mpr refused)))
    · have free : s.refusesRequest h.data = false := by
        rw [← Bool.not_eq_true, State.refusesRequest_symbols, not_or]
        refine ⟨places.not_ge, fun ⟨running, sym, second, good, nine⟩ => ?_⟩
        rcases kind with none | other
        · rw [none] at running
          exact absurd running (by decide)
        · rcases other sym second with bad | differs
          · exact absurd (good.symm.trans bad) (by decide)
          · exact differs nine
      rw [exec_presentHeld held, toUnit]
      refine ⟨fun goesOn => ?_, fun ended => ⟨fun whole => ?_, fun short last => ?_⟩⟩
      · rw [State.presentRequest_takes free, if_neg (by rw [goesOn]; decide)]
      · rw [State.presentRequest_takes free, if_pos ended, if_neg whole.not_gt]
      · rw [State.presentRequest_short free ended short last]

end Sys2Proof.Machine
end
